-- ==== Sys2Proof/Word.lean ====
section
/-! DEFINITION. The machine's words: the byte of every port and buffer (spec 00_scope.md R10, 20_memory.md R60)
and the two wider field types of the header (30_encoding.md R90). -/

namespace Sys2Proof

/-- A byte, 8 bits, the unit of every stream and buffer (R10). -/
abbrev Byte := BitVec 8

/-- A 16-bit field: source_port, dest_port, payload_size (R90). -/
abbrev Half := BitVec 16

/-- A 32-bit field: sequence_number (R90). -/
abbrev Word := BitVec 32

end Sys2Proof
end

