-- ==== Sys2Proof/Syntax.lean ====
section
/-! DEFINITION. The 22 rows of spec/opcode_table.json as one inductive, with the operand shapes of
spec 30_encoding.md R90 to R100 and the events of 00_scope.md R12. -/

namespace Sys2Proof

/-- The seven fields of format F13, at pin widths (R91, 10_state.md R45): the operand of the ENC command port. -/
structure FieldTuple where
  sourcePort : Half
  destPort : Half
  sequenceNumber : Word
  ack : Byte
  syn : Byte
  fin : Byte
  payloadSize : Half
  deriving DecidableEq, Repr

/-- The seven fields as unbounded integers: the operand of the function Encode (40_frame_codec.md R124, R125). -/
structure IntTuple where
  sourcePort : Int
  destPort : Int
  sequenceNumber : Int
  ack : Int
  syn : Int
  fin : Int
  payloadSize : Int
  deriving DecidableEq, Repr

/-- The eight fields of format H14 (30_encoding.md R90), which are also the eight field registers x[0] to x[7]
(10_state.md R20). The three flags are whole bytes (R96). -/
structure Header where
  sourcePort : Half
  destPort : Half
  sequenceNumber : Word
  ackFlag : Byte
  synFlag : Byte
  finFlag : Byte
  payloadSize : Half
  checksum : Byte
  deriving DecidableEq, Repr

/-- The class of a valid header (R99). -/
inductive FrameClass where
  | syn | ack | fin | data
  deriving DecidableEq, Repr

/-- What RECV_HEADER fires on: InByte or InEos (00_scope.md R12). -/
inductive StreamEvent where
  | byte (b : Byte)
  | eos
  deriving DecidableEq, Repr

/-- What READ_PAYLOAD fires on: InByte, InEos, or the internal completion (42_session_sequencer.md R173 to R175). -/
inductive PayloadEvent where
  | byte (b : Byte)
  | eos
  | done
  deriving DecidableEq, Repr

/-- The two exceptions that enter the error path (60_exceptions.md R235). -/
inductive FramingError where
  | malformedHeader
  | checksumError
  deriving DecidableEq, Repr

/-- One constructor for each row of spec/opcode_table.json. -/
inductive Instr where
  /-- SYN: a header whose syn_flag is 1 (R202). -/
  | syn (h : Header)
  /-- ACK: a header whose ack_flag is 1 and whose syn_flag is not (R203). -/
  | ack (h : Header)
  /-- FIN: a header of whose flags only fin_flag is 1 (R204). -/
  | fin (h : Header)
  /-- DATA: a header none of whose flags is 1 (R205). -/
  | data (h : Header)
  /-- BADSUM: a 14-byte header with the wrong checksum byte (R102). -/
  | badsum (h : Header)
  /-- SHORTHDR: 1 to 13 bytes and then end-of-data (R103). -/
  | shorthdr (bs : List Byte)
  /-- CHECKSUM of 13 bytes (R121). -/
  | checksum (bs : List Byte)
  /-- ENCODE of a field tuple (R124). -/
  | encode (t : IntTuple)
  /-- DECODE of at most 14 bytes (R127). -/
  | decode (bs : List Byte)
  /-- READ_EXACT of n bytes from the bound stream (R150). -/
  | readExact (n : Half)
  /-- ENC_CMD: a transfer on the enc_* port (R131). -/
  | encCmd (f : FieldTuple)
  /-- ENC_BYTE: a transfer on the tx_* port (R132). -/
  | encByte
  /-- OPEN (R166). -/
  | openSession
  /-- RECV_HEADER on a byte or end-of-data (R167 to R169). -/
  | recvHeader (e : StreamEvent)
  /-- VALIDATE (R171, R172). -/
  | validate
  /-- READ_PAYLOAD on a byte, end-of-data or internally (R173 to R175). -/
  | readPayload (e : PayloadEvent)
  /-- DISPATCH (R177). -/
  | dispatch
  /-- RESPOND (R178). -/
  | respond
  /-- NEXT (R179 to R182). -/
  | next
  /-- ERROR_PATH, entered by raising one of the two framing errors (R235). -/
  | errorPath (e : FramingError)
  /-- ABORT (R229). -/
  | abort
  /-- RESET (R260). -/
  | reset
  deriving DecidableEq, Repr

/-- What selects an operation, the table's "select" (30_encoding.md R101): a port, a pin, a value of STATE, or the
name of a function. No bit of an operand selects an operation; a header's class is selected by its bytes (R100). -/
inductive Select where
  | header
  | checksumFunction
  | encodeFunction
  | decodeFunction
  | readExactFunction
  | encPort
  | txPort
  | openPin
  | awaitingHeader
  | validating
  | readingPayload
  | payloadComplete
  | dispatching
  | respPort
  | responseSent
  | raiseMalformedHeader
  | raiseChecksumError
  | abortPin
  | rstPin
  deriving DecidableEq, Repr

/-- An operation as it is presented to the block: its selector and its operand bytes in wire order (R101, R112, log
entry 4). -/
structure OpWord where
  select : Select
  bytes : List Byte
  deriving DecidableEq, Repr

end Sys2Proof
end

