-- ==== Sys2Proof/Machine/Flags.lean ====
section
/-! DEFINITION. The flag predicate and the class of a header (spec 10_state.md R30, 30_encoding.md R99 and R100,
43_response_generator.md R201). FHC has no arithmetic condition codes (10_state.md R29). -/

namespace Sys2Proof.Machine

/-- IsSet(f) = (f == 1), the only way any operation looks at a flag byte (R30; log entry 16). -/
def isSet (f : Byte) : Bool :=
  f == 1

/-- Classify (R201): first match wins, in the order SYN, ACK, FIN, DATA. The arguments are in header order. -/
def classify (ack syn fin : Byte) : FrameClass :=
  if isSet syn then .syn
  else if isSet ack then .ack
  else if isSet fin then .fin
  else .data

/-- The class of a header, from its three flag bytes alone (R99). -/
def classOf (h : Header) : FrameClass :=
  classify h.ackFlag h.synFlag h.finFlag

end Sys2Proof.Machine
end

