-- ==== Sys2Proof/Config.lean ====
section
/-! DEFINITION. The constants the source fixes (spec 00_scope.md R7) and the one parameter it leaves open,
MSG_CHECKSUM (R9, 92_eei_decisions.md D21, log entry 10). -/

namespace Sys2Proof.Config

/-- HDR_LEN: the header is 14 bytes (R7). -/
def hdrLen : Nat := 14

/-- CK_LEN: the checksum covers the first 13 bytes (R7). -/
def ckLen : Nat := 13

/-- CK_MOD: the modulus of the checksum (R7). -/
def ckMod : Nat := 256

/-- How many bytes MSG_CHECKSUM has: 0 to 248, open (R9). -/
opaque msgChecksumLen : Fin 249

/-- The bytes of MSG_CHECKSUM, open (R9). -/
opaque msgChecksumByte : Nat → Byte

/-- MSG_CHECKSUM: an unknown byte string of 0 to 248 bytes (R9). No value of it can be proved, so a claim about a
checksum-error response holds for every value, as D21 asks. -/
def msgChecksum : List Byte := (List.range msgChecksumLen.val).map msgChecksumByte

end Sys2Proof.Config
end

