-- ==== Sys2Proof/Machine/Operands.lean ====
section
/-! DEFINITION. The operand forms: big-endian assembly and disassembly of header fields (spec 20_memory.md R61 to R63,
30_encoding.md R95), the checksum (40_frame_codec.md R121), and the pure functions Encode and Decode (R124, R127). -/

namespace Sys2Proof.Machine

/-! ## Big-endian numbers -/

/-- The unsigned integer that a byte sequence spells, most significant byte first (R61). -/
def beValue (bs : List Byte) : Nat :=
  bs.foldl (fun acc b => acc * 256 + b.toNat) 0

/-- BE(bs, addr, n): the big-endian read of n bytes of bs from offset addr (R62). -/
def be (bs : List Byte) (addr n : Nat) : Nat :=
  beValue ((bs.drop addr).take n)

/-- The n-byte big-endian spelling of v: byte k is (v div 256^(n-1-k)) mod 256 (R63). -/
def spell (n v : Nat) : List Byte :=
  (List.range n).map fun k => BitVec.ofNat 8 (v / 256 ^ (n - 1 - k))

/-! ## The checksum -/

/-- The ordinary integer sum of the bytes (R121). -/
def byteSum (bs : List Byte) : Nat :=
  (bs.map BitVec.toNat).sum

/-- CHECKSUM (R121): the sum modulo 256. The rule defines it on 13 bytes; the meaning of the CHECKSUM row refuses any
other length. -/
def checksum (bs : List Byte) : Byte :=
  BitVec.ofNat 8 (byteSum bs % Config.ckMod)

/-! ## Headers and field tuples as bytes -/

/-- The 13 bytes of format F13 (R91, R95, R124). -/
def fieldBytes (f : FieldTuple) : List Byte :=
  spell 2 f.sourcePort.toNat ++ spell 2 f.destPort.toNat ++ spell 4 f.sequenceNumber.toNat ++
    [f.ack, f.syn, f.fin] ++ spell 2 f.payloadSize.toNat

/-- Encode on a tuple at pin widths: the 13 bytes and their checksum (R124). It cannot fail (R125). -/
def encodeFields (f : FieldTuple) : List Byte :=
  fieldBytes f ++ [checksum (fieldBytes f)]

/-- A header's seven fields without its checksum. -/
def fieldsOf (h : Header) : FieldTuple :=
  { sourcePort := h.sourcePort, destPort := h.destPort, sequenceNumber := h.sequenceNumber
    ack := h.ackFlag, syn := h.synFlag, fin := h.finFlag, payloadSize := h.payloadSize }

/-- The 14 bytes of format H14, with the checksum byte as the header holds it (R90). -/
def headerBytes (h : Header) : List Byte :=
  fieldBytes (fieldsOf h) ++ [h.checksum]

/-- The fields that 14 bytes assemble to (R95, R127): flags are raw bytes (R129). -/
def headerOfBytes (bs : List Byte) : Header :=
  { sourcePort := BitVec.ofNat 16 (be bs 0 2)
    destPort := BitVec.ofNat 16 (be bs 2 2)
    sequenceNumber := BitVec.ofNat 32 (be bs 4 4)
    ackFlag := bs.getD 8 0
    synFlag := bs.getD 9 0
    finFlag := bs.getD 10 0
    payloadSize := BitVec.ofNat 16 (be bs 11 2)
    checksum := bs.getD 13 0 }

/-- The fields that 13 bytes assemble to: format F13 read back (R91, R95). -/
def fieldsOfBytes (bs : List Byte) : FieldTuple :=
  fieldsOf (headerOfBytes bs)

/-- The checksum byte is the modulo-256 sum of the other thirteen (R97, R102). -/
def checksumRight (bs : List Byte) : Bool :=
  checksum (bs.take Config.ckLen) == bs.getD Config.ckLen 0

/-! ## Encode over unbounded integers -/

/-- The error or the header that Encode returns (R124, R125). -/
inductive EncodeResult where
  /-- The 14-byte header. -/
  | header (bs : List Byte)
  /-- EncodingError, with the number of the offending field, 0 to 6. -/
  | encodingError (field : Fin 7)
  deriving DecidableEq, Repr

/-- Whether an integer fits an unsigned field of w bits (R124). -/
def fits (w : Nat) (v : Int) : Bool :=
  decide (0 ≤ v) && decide (v < (2 : Int) ^ w)

/-- The first field, in the order of R124, that does not fit its width. -/
def firstMisfit (t : IntTuple) : Option (Fin 7) :=
  if fits 16 t.sourcePort = false then some 0
  else if fits 16 t.destPort = false then some 1
  else if fits 32 t.sequenceNumber = false then some 2
  else if fits 8 t.ack = false then some 3
  else if fits 8 t.syn = false then some 4
  else if fits 8 t.fin = false then some 5
  else if fits 16 t.payloadSize = false then some 6
  else none

/-- An in-range integer tuple at pin widths. -/
def narrow (t : IntTuple) : FieldTuple :=
  { sourcePort := BitVec.ofNat 16 t.sourcePort.toNat, destPort := BitVec.ofNat 16 t.destPort.toNat
    sequenceNumber := BitVec.ofNat 32 t.sequenceNumber.toNat, ack := BitVec.ofNat 8 t.ack.toNat
    syn := BitVec.ofNat 8 t.syn.toNat, fin := BitVec.ofNat 8 t.fin.toNat
    payloadSize := BitVec.ofNat 16 t.payloadSize.toNat }

/-- A tuple at pin widths as integers. -/
def widen (f : FieldTuple) : IntTuple :=
  { sourcePort := f.sourcePort.toNat, destPort := f.destPort.toNat, sequenceNumber := f.sequenceNumber.toNat
    ack := f.ack.toNat, syn := f.syn.toNat, fin := f.fin.toNat, payloadSize := f.payloadSize.toNat }

/-- Encode (R124): every out-of-range field is rejected, nothing is truncated (R125). -/
def encodeHeader (t : IntTuple) : EncodeResult :=
  match firstMisfit t with
  | some k => .encodingError k
  | none => .header (encodeFields (narrow t))

/-! ## Decode -/

/-- The error or the fields that Decode returns (R127). -/
inductive DecodeResult where
  /-- The seven fields and the checksum byte. -/
  | fields (h : Header)
  /-- MalformedHeaderError, with the number of bytes there were. -/
  | malformedHeader (length : Nat)
  /-- ChecksumError, with the computed and the stored byte. -/
  | checksumError (computed stored : Byte)
  /-- More than 14 bytes: outside the function's domain (R128). -/
  | outsideDomain (length : Nat)
  deriving DecidableEq, Repr

/-- Decode (R127): the length is checked first, then the checksum, and no field is read before both pass (R128). -/
def decodeHeader (bs : List Byte) : DecodeResult :=
  if bs.length < Config.hdrLen then .malformedHeader bs.length
  else if Config.hdrLen < bs.length then .outsideDomain bs.length
  else if checksumRight bs = true then .fields (headerOfBytes bs)
  else .checksumError (checksum (bs.take Config.ckLen)) (bs.getD Config.ckLen 0)

/-! ## ReadExact over a stream that delivers chunks -/

/-- ReadExact's loop (R150) over a stream given as the chunks in which it will deliver its bytes: `read` takes at most
what is still missing from the first chunk, an empty chunk is a zero-length read, and the list's end is end-of-data.
It returns the bytes read and what is left of the stream. -/
def readExactChunks : List (List Byte) → Nat → List Byte × List (List Byte)
  | [], _ => ([], [])
  | c :: cs, n =>
    if n = 0 then ([], c :: cs)
    else if c = [] then ([], [] :: cs)
    else if c.length ≤ n then
      let (more, rest) := readExactChunks cs (n - c.length)
      (c ++ more, rest)
    else (c.take n, c.drop n :: cs)

end Sys2Proof.Machine
end

