-- ==== Sys2Proof/WellFormed.lean ====
section
/-! DEFINITION. Which terms of `Instr` the spec's encodings admit: a class row's header has the right checksum and that
class (spec 30_encoding.md R100, R102), BADSUM's has the wrong one, SHORTHDR has 1 to 13 bytes (R103), and each function
has operands in its domain (40_frame_codec.md R121, R124, R127). -/

namespace Sys2Proof

/-- A header that a class row stands for: right checksum byte and that class (R100). -/
def wellFormedClass (c : FrameClass) (h : Header) : Bool :=
  Machine.checksumRight (Machine.headerBytes h) && Machine.classOf h == c

/-- The encodings' own conditions on an instruction. -/
def wellFormed : Instr → Bool
  | .syn h => wellFormedClass .syn h
  | .ack h => wellFormedClass .ack h
  | .fin h => wellFormedClass .fin h
  | .data h => wellFormedClass .data h
  | .badsum h => !Machine.checksumRight (Machine.headerBytes h)
  | .shorthdr bs => decide (1 ≤ bs.length) && decide (bs.length ≤ 13)
  | .checksum bs => bs.length == 13
  | .encode t => Machine.firstMisfit t == none
  | .decode bs => decide (bs.length ≤ 14)
  | .readExact _ => true
  | .encCmd _ => true
  | .encByte => true
  | .openSession => true
  | .recvHeader _ => true
  | .validate => true
  | .readPayload _ => true
  | .dispatch => true
  | .respond => true
  | .next => true
  | .errorPath _ => true
  | .abort => true
  | .reset => true

end Sys2Proof
end

