-- ==== Sys2Proof/Decode.lean ====
section
/-! DEFINITION. The decoder, total on any selector and any operand bytes and rejecting by name, and after it the encoder
(spec 30_encoding.md R90, R95, R100 to R103, R112). A header is told apart by its bytes (R100); an operation by its
selector alone (R101; log entry 4). -/

namespace Sys2Proof

/-- Why the decoder refuses a word. -/
inductive DecodeReject where
  /-- A header of no bytes: end-of-data at a frame boundary is no header (R103). -/
  | noHeaderBytes
  /-- A header of more than 14 bytes: RX never collects one (R128). -/
  | headerTooLong (length : Nat)
  /-- An operation with the wrong number of operand bytes for its layout (R112). -/
  | operandLength (select : Select) (length : Nat)
  deriving DecidableEq, Repr

/-- What the decoder answers. -/
inductive Decoded where
  | instr (i : Instr)
  | reject (r : DecodeReject)
  deriving DecidableEq, Repr

/-- The class row of a valid header (R100). -/
def classInstr (c : FrameClass) (h : Header) : Instr :=
  match c with
  | .syn => .syn h
  | .ack => .ack h
  | .fin => .fin h
  | .data => .data h

/-- The row of a header of any length: SHORTHDR for 1 to 13 bytes, BADSUM before any class, then the class map
(R100, R102, R103, R128). -/
def decodeHeaderWord (bs : List Byte) : Decoded :=
  if bs.length = 0 then .reject .noHeaderBytes
  else if bs.length < 14 then .instr (.shorthdr bs)
  else if 14 < bs.length then .reject (.headerTooLong bs.length)
  else if Machine.checksumRight bs = true then
    .instr (classInstr (Machine.classOf (Machine.headerOfBytes bs)) (Machine.headerOfBytes bs))
  else .instr (.badsum (Machine.headerOfBytes bs))

/-- An operation with no operand. -/
def decodeBare (sel : Select) (i : Instr) (bs : List Byte) : Decoded :=
  match bs with
  | [] => .instr i
  | _ => .reject (.operandLength sel bs.length)

/-- The decoder (R100, R101). -/
def decode (w : OpWord) : Decoded :=
  match w.select with
  | .header => decodeHeaderWord w.bytes
  | .checksumFunction =>
    if w.bytes.length = 13 then .instr (.checksum w.bytes) else .reject (.operandLength w.select w.bytes.length)
  | .encodeFunction =>
    if w.bytes.length = 13 then .instr (.encode (Machine.widen (Machine.fieldsOfBytes w.bytes)))
    else .reject (.operandLength w.select w.bytes.length)
  | .decodeFunction =>
    if w.bytes.length ≤ 14 then .instr (.decode w.bytes) else .reject (.operandLength w.select w.bytes.length)
  | .readExactFunction =>
    if w.bytes.length = 2 then .instr (.readExact (BitVec.ofNat 16 (Machine.beValue w.bytes)))
    else .reject (.operandLength w.select w.bytes.length)
  | .encPort =>
    if w.bytes.length = 13 then .instr (.encCmd (Machine.fieldsOfBytes w.bytes))
    else .reject (.operandLength w.select w.bytes.length)
  | .txPort => decodeBare w.select .encByte w.bytes
  | .openPin => decodeBare w.select .openSession w.bytes
  | .awaitingHeader =>
    match w.bytes with
    | [] => .instr (.recvHeader .eos)
    | [b] => .instr (.recvHeader (.byte b))
    | _ => .reject (.operandLength w.select w.bytes.length)
  | .validating => decodeBare w.select .validate w.bytes
  | .readingPayload =>
    match w.bytes with
    | [] => .instr (.readPayload .eos)
    | [b] => .instr (.readPayload (.byte b))
    | _ => .reject (.operandLength w.select w.bytes.length)
  | .payloadComplete => decodeBare w.select (.readPayload .done) w.bytes
  | .dispatching => decodeBare w.select .dispatch w.bytes
  | .respPort => decodeBare w.select .respond w.bytes
  | .responseSent => decodeBare w.select .next w.bytes
  | .raiseMalformedHeader => decodeBare w.select (.errorPath .malformedHeader) w.bytes
  | .raiseChecksumError => decodeBare w.select (.errorPath .checksumError) w.bytes
  | .abortPin => decodeBare w.select .abort w.bytes
  | .rstPin => decodeBare w.select .reset w.bytes

/-- The encoder: the selector and the operand bytes of an instruction, from the same layouts (R90, R91, R95, R112).
End-of-data is the empty operand, the source's "zero-length read" (00_scope.md R12). -/
def encode (i : Instr) : OpWord :=
  match i with
  | .syn h => ⟨.header, Machine.headerBytes h⟩
  | .ack h => ⟨.header, Machine.headerBytes h⟩
  | .fin h => ⟨.header, Machine.headerBytes h⟩
  | .data h => ⟨.header, Machine.headerBytes h⟩
  | .badsum h => ⟨.header, Machine.headerBytes h⟩
  | .shorthdr bs => ⟨.header, bs⟩
  | .checksum bs => ⟨.checksumFunction, bs⟩
  | .encode t => ⟨.encodeFunction, Machine.fieldBytes (Machine.narrow t)⟩
  | .decode bs => ⟨.decodeFunction, bs⟩
  | .readExact n => ⟨.readExactFunction, Machine.spell 2 n.toNat⟩
  | .encCmd f => ⟨.encPort, Machine.fieldBytes f⟩
  | .encByte => ⟨.txPort, []⟩
  | .openSession => ⟨.openPin, []⟩
  | .recvHeader (.byte b) => ⟨.awaitingHeader, [b]⟩
  | .recvHeader .eos => ⟨.awaitingHeader, []⟩
  | .validate => ⟨.validating, []⟩
  | .readPayload (.byte b) => ⟨.readingPayload, [b]⟩
  | .readPayload .eos => ⟨.readingPayload, []⟩
  | .readPayload .done => ⟨.payloadComplete, []⟩
  | .dispatch => ⟨.dispatching, []⟩
  | .respond => ⟨.respPort, []⟩
  | .next => ⟨.responseSent, []⟩
  | .errorPath .malformedHeader => ⟨.raiseMalformedHeader, []⟩
  | .errorPath .checksumError => ⟨.raiseChecksumError, []⟩
  | .abort => ⟨.abortPin, []⟩
  | .reset => ⟨.rstPin, []⟩

/-- The word of nbits bits that the opcode table's numbering gives: H[111:0] with bit 0 the least significant bit of
the last byte (00_scope.md R10), so the bytes are the big-endian spelling. The table selects no operation by its bits,
so the layout's width picks the selector: 8 bits a RECV_HEADER byte, 16 READ_EXACT's count, 104 the enc_* command, any
other width up to 112 a header whose upper bits are zero (log entry 4). -/
def tableWord (nbits w : Nat) : OpWord :=
  if nbits = 0 then ⟨.header, []⟩
  else if nbits = 8 then ⟨.awaitingHeader, Machine.spell 1 w⟩
  else if nbits = 16 then ⟨.readExactFunction, Machine.spell 2 w⟩
  else if nbits = 104 then ⟨.encPort, Machine.spell 13 w⟩
  else if nbits ≤ 112 then ⟨.header, Machine.spell 14 w⟩
  else ⟨.header, Machine.spell ((nbits + 7) / 8) w⟩

/-- The instruction this decoder reads from a table word (log entry 4). -/
def decodeTableWord (nbits w : Nat) : Option Instr :=
  match decode (tableWord nbits w) with
  | .instr i => some i
  | .reject _ => none

end Sys2Proof
end

