-- ==== Sys2Proof/Machine/State.lean ====
section
/-! DEFINITION. The state of FHC as plain data: the registers of RX and of ENC (spec 10_state.md R20 to R36), and the
environment's side, which a deterministic step needs as data (00_scope.md R12, R13; log entries 1, 2, 6, 12). Then the
reasons a step can stop, and reset (R43). -/

namespace Sys2Proof.Machine

/-- A byte-addressed buffer: offset and byte, offsets strictly rising, no zero byte listed; an unlisted offset reads as
zero, the reset contents of both buffers (R35, R36, R43; log entry 11). -/
abbrev Memory := List Host.Cell

/-- The values STATE takes (R24). -/
inductive RxState where
  | terminated | awaitingHeader | validating | readingPayload | dispatching | responding
  deriving DecidableEq, Repr

/-- The values RESP_CODE takes (R32). -/
inductive RespCode where
  | none | syn | ack | fin | data | errMalformed | errChecksum
  deriving DecidableEq, Repr

/-- The values TERM_CAUSE takes (R33). -/
inductive TermCause where
  | none | peerClosed | fin | errMalformed | errChecksum | fault
  deriving DecidableEq, Repr

/-- The registers of unit RX (R20, R24 to R35). HDR_CNT is bounded by its type, so 15 is no value of it
(93_implementation_defined.md U12; log entry 18). -/
structure RxRegs where
  /-- STATE. -/
  state : RxState
  /-- HDR_BUF, 14 bytes. -/
  hdrBuf : Memory
  /-- HDR_CNT, 0 to 14. -/
  hdrCnt : Fin 15
  /-- HDR_VALID. -/
  hdrValid : Bool
  /-- SHORT. -/
  short : Bool
  /-- PAY_REM. -/
  payRem : Half
  /-- PAY_CNT. -/
  payCnt : Half
  /-- RESP_CODE. -/
  respCode : RespCode
  /-- RESP_IDX. -/
  respIdx : BitVec 8
  /-- TERM_CAUSE. -/
  termCause : TermCause
  /-- The field registers x[0] to x[7]. -/
  x : Header
  deriving DecidableEq, Repr

/-- The registers of unit ENC (R31, R36). -/
structure EncRegs where
  /-- TX_BUF, 14 bytes. -/
  txBuf : Memory
  /-- TX_IDX, 0 to 14; 14 is idle. -/
  txIdx : Fin 15
  deriving DecidableEq, Repr

/-- The levels on the input pins (R45 to R49). in_valid, in_data and in_eos are completed by the bound stream
(`inValid`, `inData`, `inEos` of Machine/Pins.lean; log entry 1). -/
structure Pins where
  rst : Bool
  abort : Bool
  openValid : Bool
  /-- The source offers its next byte, if it has one. -/
  inValid : Bool
  /-- What in_data carries while no byte is offered. -/
  inDataIdle : Byte
  /-- in_eos is raised whatever the stream still holds; a stream that has ended raises it without this. -/
  inEos : Bool
  payReady : Bool
  respReady : Bool
  encValid : Bool
  enc : FieldTuple
  txReady : Bool
  deriving DecidableEq, Repr

/-- The stream bound to the in_* port: the bytes it will still deliver, in order, and whether it then ends or falls
silent (R39, R51 b, 20_memory.md R74). -/
structure Stream where
  bytes : List Byte
  ends : Bool
  deriving DecidableEq, Repr

/-- One byte pushed to an output with its "last" sideband (R45 tx_last, R48 resp_last). -/
structure Beat where
  data : Byte
  last : Bool
  deriving DecidableEq, Repr

/-- A move of the environment: a clock edge at which the pins have these levels (R50), the binding of a stream to the
in_* port (R51 c), or one labelled event given as an operation's word (00_scope.md R13; log entry 3). -/
inductive Move where
  | edge (p : Pins)
  | bind (d : Stream)
  | event (w : OpWord)
  deriving DecidableEq, Repr

/-- What a codec or reader function returned (40_frame_codec.md R120, 41_payload_reader.md R150; log entry 6). -/
inductive FnResult where
  | nothing
  | checksum (b : Byte)
  | encode (r : EncodeResult)
  | decode (r : DecodeResult)
  | read (bs : List Byte)
  deriving DecidableEq, Repr

/-- The environment's side of the state, and what has left the block (log entries 1, 2, 6, 12). -/
structure Env where
  pins : Pins
  moves : List Move
  stream : Stream
  /-- Payload bytes pushed, in order (R12 PayPush). -/
  payOut : List Byte
  /-- Response bytes pushed, in order (R12 RespPush). -/
  respOut : List Beat
  /-- Encoder bytes pushed, in order (R12 TxPush). -/
  txOut : List Beat
  /-- RX_POS, the ghost count of bytes RX has consumed since Open (R26). -/
  rxPos : Nat
  result : FnResult
  deriving DecidableEq, Repr

/-- The whole state: two units that share nothing (R44), and the environment. -/
structure State where
  rx : RxRegs
  enc : EncRegs
  env : Env
  deriving DecidableEq, Repr

/-- Why a step stops with a fault: for no reason. Every exception of 60_exceptions.md R220 is taken as a next state
(R235, R229) or is a function's result (R221), and what the spec gives no meaning is refused (00_scope.md R14). -/
inductive Fault where
  deriving DecidableEq, Repr

/-- Why a step has no meaning. -/
inductive Refusal where
  /-- An instruction that this model has not reached yet. Raised by no arm. Safe. -/
  | notModelled (mnemonic : String)
  /-- A word that the decoder rejects. Raised by `step` on an event. Safe. -/
  | undecodable (r : DecodeReject)
  /-- CHECKSUM of a length other than 13 (95_test_vectors.md 2.1: refuse). Raised by CHECKSUM. Safe. -/
  | checksumLength (length : Nat)
  /-- DECODE of more than 14 bytes (40_frame_codec.md R128: refuse). Raised by DECODE. Safe. -/
  | decodeLength (length : Nat)
  /-- Register values that are never taken together (93_implementation_defined.md U12: refuse; 42_session_sequencer.md
  R167: HDR_CNT is 0 to 13 in AWAITING_HEADER). Raised by RECV_HEADER, RESPOND and NEXT in states that no run reaches.
  Safe (log entry 9). -/
  | neverTaken
  deriving DecidableEq, Repr

/-- All field registers zero (R43). -/
def zeroHeader : Header :=
  { sourcePort := 0, destPort := 0, sequenceNumber := 0, ackFlag := 0, synFlag := 0, finFlag := 0
    payloadSize := 0, checksum := 0 }

/-- RX after reset (R43). -/
def RxRegs.reset : RxRegs :=
  { state := .terminated, hdrBuf := [], hdrCnt := 0, hdrValid := false, short := false, payRem := 0, payCnt := 0
    respCode := .none, respIdx := 0, termCause := .none, x := zeroHeader }

/-- ENC after reset (R43): TX_IDX = 14, idle. -/
def EncRegs.reset : EncRegs :=
  { txBuf := [], txIdx := 14 }

/-- All input pins low (log entry 2). -/
def Pins.low : Pins :=
  { rst := false, abort := false, openValid := false, inValid := false, inDataIdle := 0, inEos := false
    payReady := false, respReady := false, encValid := false
    enc := { sourcePort := 0, destPort := 0, sequenceNumber := 0, ack := 0, syn := 0, fin := 0, payloadSize := 0 }
    txReady := false }

/-- The environment before it has done anything (log entries 2, 6, 12). -/
def Env.reset : Env :=
  { pins := .low, moves := [], stream := { bytes := [], ends := false }, payOut := [], respOut := [], txOut := []
    rxPos := 0, result := .nothing }

/-- The machine right after reset (R43, R261). -/
def State.reset : State :=
  { rx := .reset, enc := .reset, env := .reset }

end Sys2Proof.Machine
end

