-- ==== Sys2Proof/Machine/Responses.lean ====
section
/-! DEFINITION. The response texts and the decimal text (spec 43_response_generator.md R200, R206 to R210). -/

namespace Sys2Proof.Machine

/-- " received – ": the part the four class texts share, with U+2013 as E2 80 93 (R207, R209). -/
def textReceived : List Byte :=
  [0x20, 0x72, 0x65, 0x63, 0x65, 0x69, 0x76, 0x65, 0x64, 0x20, 0xE2, 0x80, 0x93, 0x20]

/-- "connection " (R207). -/
def textConnection : List Byte :=
  [0x63, 0x6F, 0x6E, 0x6E, 0x65, 0x63, 0x74, 0x69, 0x6F, 0x6E, 0x20]

/-- T_SYN (R207): "SYN received – connection initiated". -/
def textSyn : List Byte :=
  [0x53, 0x59, 0x4E] ++ textReceived ++ textConnection ++ [0x69, 0x6E, 0x69, 0x74, 0x69, 0x61, 0x74, 0x65, 0x64]

/-- T_ACK (R207): "ACK received – message acknowledged". -/
def textAck : List Byte :=
  [0x41, 0x43, 0x4B] ++ textReceived ++ [0x6D, 0x65, 0x73, 0x73, 0x61, 0x67, 0x65, 0x20] ++
    [0x61, 0x63, 0x6B, 0x6E, 0x6F, 0x77, 0x6C, 0x65, 0x64, 0x67, 0x65, 0x64]

/-- T_FIN (R207): "FIN received – connection closing". -/
def textFin : List Byte :=
  [0x46, 0x49, 0x4E] ++ textReceived ++ textConnection ++ [0x63, 0x6C, 0x6F, 0x73, 0x69, 0x6E, 0x67]

/-- T_DATA (R207): "Data received – payload length: ". -/
def textData : List Byte :=
  [0x44, 0x61, 0x74, 0x61] ++ textReceived ++ [0x70, 0x61, 0x79, 0x6C, 0x6F, 0x61, 0x64, 0x20] ++
    [0x6C, 0x65, 0x6E, 0x67, 0x74, 0x68, 0x3A, 0x20]

/-- T_ERR (R207): "Error: ". -/
def textErr : List Byte :=
  [0x45, 0x72, 0x72, 0x6F, 0x72, 0x3A, 0x20]

/-- T_INCOMPLETE (R207): "Incomplete header received". -/
def textIncomplete : List Byte :=
  [0x49, 0x6E, 0x63, 0x6F, 0x6D, 0x70, 0x6C, 0x65, 0x74, 0x65, 0x20, 0x68, 0x65, 0x61, 0x64, 0x65, 0x72, 0x20] ++
    [0x72, 0x65, 0x63, 0x65, 0x69, 0x76, 0x65, 0x64]

/-- The ASCII digit of a number below 10 (R208). -/
def digit (n : Nat) : Byte :=
  BitVec.ofNat 8 (0x30 + n)

/-- Dec's recursion with a bound on the number of digits (R208). -/
def decDigits : Nat → Nat → List Byte
  | 0, _ => []
  | k + 1, n => if n < 10 then [digit n] else decDigits k (n / 10) ++ [digit (n % 10)]

/-- Dec (R208): plain decimal, no leading zeros. Five digits are enough for any 16-bit value. -/
def dec (n : Nat) : List Byte :=
  decDigits 5 n

/-- RespBytes (R207). -/
def respBytes (c : RespCode) (n : Half) : List Byte :=
  match c with
  | .syn => textSyn
  | .ack => textAck
  | .fin => textFin
  | .data => textData ++ dec n.toNat
  | .errMalformed => textErr ++ textIncomplete
  | .errChecksum => textErr ++ Config.msgChecksum
  | .none => []

/-- RespLen (R207). -/
def respLen (c : RespCode) (n : Half) : Nat :=
  (respBytes c n).length

/-- The response code of a class (R32, R177). -/
def RespCode.ofClass : FrameClass → RespCode
  | .syn => .syn
  | .ack => .ack
  | .fin => .fin
  | .data => .data

/-- The response code that a framing error enters with (R32, R235). -/
def RespCode.ofError : FramingError → RespCode
  | .malformedHeader => .errMalformed
  | .checksumError => .errChecksum

end Sys2Proof.Machine
end

