-- ==== Sys2Proof/Machine/Ops.lean ====
section
/-! DEFINITION. The named operations over the buffers, the registers and the streams, among them the one way an
exception is taken (spec 60_exceptions.md R235, R229) and the one way a session ends (R238: there is no return). -/

namespace Sys2Proof.Machine

/-! ## Buffers (20_memory.md R60 to R64) -/

/-- The byte at an offset; an unlisted offset reads as zero (R43). -/
def Memory.read : Memory → Nat → Byte
  | [], _ => 0
  | (k, b) :: m, a => if a = k then b else Memory.read m a

/-- A cell in front of a buffer, unless its byte is what an unlisted offset reads as. -/
def Memory.cell (a : Nat) (b : Byte) (m : Memory) : Memory :=
  if b = 0 then m else (a, b) :: m

/-- Write one byte, keeping the canonical form. -/
def Memory.write : Memory → Nat → Byte → Memory
  | [], a, b => Memory.cell a b []
  | (k, c) :: m, a, b =>
    if a < k then Memory.cell a b ((k, c) :: m)
    else if a = k then Memory.cell a b m
    else (k, c) :: Memory.write m a b

/-- Write bytes one after another from an offset. -/
def Memory.store : Memory → Nat → List Byte → Memory
  | m, _, [] => m
  | m, a, b :: bs => Memory.store (Memory.write m a b) (a + 1) bs

/-- The buffer's 14 bytes in offset order (R60). -/
def Memory.bytes (m : Memory) : List Byte :=
  (List.range Config.hdrLen).map (Memory.read m)

/-- The canonical form from an offset on: offsets strictly rising and below 14, no zero byte listed. -/
def Memory.wfFrom : Nat → Memory → Bool
  | _, [] => true
  | lo, (k, b) :: m => decide (lo ≤ k) && decide (k < Config.hdrLen) && (b != 0) && Memory.wfFrom (k + 1) m

/-- The canonical form of a buffer. -/
def Memory.wf (m : Memory) : Bool :=
  Memory.wfFrom 0 m

/-- The accesses that MemRead and MemWrite have: 1, 2 or 4 bytes inside the buffer (R62, R63). -/
def accessInside (addr n : Nat) : Bool :=
  (n == 1 || n == 2 || n == 4) && decide (addr + n ≤ Config.hdrLen)

/-- MemRead(addr, n): the big-endian integer at an offset (R62); nothing outside its domain. -/
def memRead (m : Memory) (addr n : Nat) : Option Nat :=
  if accessInside addr n then some (be (Memory.bytes m) addr n) else none

/-- MemWrite(addr, n, v): the big-endian spelling at an offset (R63); nothing outside its domain. -/
def memWrite (m : Memory) (addr n v : Nat) : Option Memory :=
  if accessInside addr n ∧ v < 256 ^ n then some (Memory.store m addr (spell n v)) else none

/-! ## No step -/

/-- An operation whose condition does not hold takes no step: nothing changes (10_state.md R50 item 7, 00_scope.md R14
stall; log entry 8). -/
def noStep (s : State) : Host.Outcome State Fault Refusal :=
  .next s

/-! ## Registers of RX -/

/-- ClearFrame (10_state.md R42): every per-frame register to zero; STATE, TERM_CAUSE and ENC are not touched. -/
def clearFrame (s : State) : State :=
  { s with rx := { s.rx with
      hdrBuf := [], hdrCnt := 0, hdrValid := false, short := false, payRem := 0, payCnt := 0
      respCode := .none, respIdx := 0, x := zeroHeader } }

/-- STATE <- v (R24). -/
def enterState (v : RxState) (s : State) : State :=
  { s with rx := { s.rx with state := v } }

/-- RESP_CODE <- c; RESP_IDX <- 0; STATE <- RESPONDING: the start of a response, by DISPATCH (R177) and by the error
path (R235). -/
def startResponse (c : RespCode) (s : State) : State :=
  { s with rx := { s.rx with respCode := c, respIdx := 0, state := .responding } }

/-- TAKING A FRAMING EXCEPTION: the error path's entry (R235). Nothing is saved anywhere; three registers change, and
control goes to RESPONDING, which sends the error's text. -/
def raiseFraming (e : FramingError) (s : State) : State :=
  startResponse (.ofError e) s

/-- TERM_CAUSE <- c; STATE <- TERMINATED: how a session ends, and all there is in place of a return (R33, R180, R181,
R168, R229, R238). -/
def terminate (c : TermCause) (s : State) : State :=
  { s with rx := { s.rx with termCause := c, state := .terminated } }

/-- The one step in which VALIDATE loads the field registers (R171, 20_memory.md R69). -/
def loadFields (h : Header) (s : State) : State :=
  { s with rx := { s.rx with
      x := h, hdrValid := true, payRem := h.payloadSize, payCnt := 0, state := .readingPayload } }

/-- HDR_BUF[HDR_CNT] <- b; HDR_CNT <- HDR_CNT + 1; VALIDATING when that makes 14 (R167). -/
def collectHeaderByte (b : Byte) (s : State) : State :=
  { s with rx := { s.rx with
      hdrBuf := Memory.write s.rx.hdrBuf s.rx.hdrCnt.val b
      hdrCnt := s.rx.hdrCnt + 1
      state := if s.rx.hdrCnt + 1 = 14 then .validating else s.rx.state } }

/-! ## Streams -/

/-- RX takes n bytes from the bound stream (20_memory.md R70, R74). -/
def consume (n : Nat) (s : State) : State :=
  { s with env := { s.env with
      stream := { s.env.stream with bytes := s.env.stream.bytes.drop n }, rxPos := s.env.rxPos + n } }

/-- PayPush of the bytes in order, with PAY_REM and PAY_CNT stepped once for each (R173). -/
def passPayload (bs : List Byte) (s : State) : State :=
  { s with
    rx := { s.rx with
      payRem := s.rx.payRem - BitVec.ofNat 16 bs.length, payCnt := s.rx.payCnt + BitVec.ofNat 16 bs.length }
    env := { s.env with payOut := s.env.payOut ++ bs } }

/-- RespPush of the byte at RESP_IDX, with resp_last on the last one, and RESP_IDX <- RESP_IDX + 1 (R178, R48). -/
def pushResponse (s : State) : State :=
  let text := respBytes s.rx.respCode s.rx.x.payloadSize
  { s with
    rx := { s.rx with respIdx := s.rx.respIdx + 1 }
    env := { s.env with
      respOut := s.env.respOut ++ [{ data := text.getD s.rx.respIdx.toNat 0
                                     last := decide (s.rx.respIdx.toNat + 1 = text.length) }] } }

/-- A function's result, in the model's own field (log entry 6). -/
def setResult (r : FnResult) (s : State) : State :=
  { s with env := { s.env with result := r } }

/-! ## ENC -/

/-- TX_BUF <- Encode(f); TX_IDX <- 0 (R131). -/
def loadTx (f : FieldTuple) (s : State) : State :=
  { s with enc := { txBuf := Memory.store [] 0 (encodeFields f), txIdx := 0 } }

/-- TxPush(TX_BUF[TX_IDX]), with tx_last on the 14th byte; TX_IDX <- TX_IDX + 1 (R132). -/
def pushTx (s : State) : State :=
  { s with
    enc := { s.enc with txIdx := s.enc.txIdx + 1 }
    env := { s.env with
      txOut := s.env.txOut ++ [{ data := Memory.read s.enc.txBuf s.enc.txIdx.val
                                 last := decide (s.enc.txIdx.val = 13) }] } }

/-! ## Reset -/

/-- Every register of both units to its reset value; what is already pushed stays pushed and what is not yet taken
stays in the stream (R260, R262). -/
def resetUnits (s : State) : State :=
  { s with rx := .reset, enc := .reset }

end Sys2Proof.Machine
end

