-- ==== Sys2Proof/Machine/Pins.lean ====
section
/-! DEFINITION. The pins: derived levels (spec 10_state.md R29), handshake outputs (R45 to R48), status outputs (R49) with
the numeric codes of R24, R32 and R33, and the exception numbers of 60_exceptions.md R220. -/

namespace Sys2Proof.Machine

/-! ## Input port, completed by the bound stream (R46, R51; log entry 1) -/

/-- in_valid: a byte is offered. -/
def inValid (s : State) : Bool :=
  s.env.pins.inValid && !s.env.stream.bytes.isEmpty

/-- in_data: the stream's next byte while it is offered. -/
def inData (s : State) : Byte :=
  if inValid s then s.env.stream.bytes.headD s.env.pins.inDataIdle else s.env.pins.inDataIdle

/-- in_eos: a level, raised once a stream that ends has delivered its last byte (R51 b), or by the environment. -/
def inEos (s : State) : Bool :=
  s.env.pins.inEos || (s.env.stream.ends && s.env.stream.bytes.isEmpty)

/-! ## What the stream does (00_scope.md R12; log entry 13) -/

/-- InByte(b) can happen: b is the next byte of the bound stream (R12: "the input stream delivers its next byte b"). -/
def deliversByte (b : Byte) (s : State) : Bool :=
  s.env.stream.bytes.head? == some b

/-- InEos can happen, once RX wants a byte: the stream signals end-of-data, in_eos, and offers no byte (R12, R50 item 4;
60_exceptions.md R233: a byte comes before end-of-data). -/
def endOfData (s : State) : Bool :=
  !inValid s && inEos s

/-! ## Derived levels (R29) -/

/-- closed. -/
def closed (s : State) : Bool :=
  s.rx.state == .terminated

/-- enc_busy. -/
def encBusy (s : State) : Bool :=
  decide (s.enc.txIdx.val < 14)

/-- READING_PAYLOAD with payload bytes still missing. -/
def payloadPending (s : State) : Bool :=
  s.rx.state == .readingPayload && s.rx.payRem != 0

/-- wants_byte: it does not look at pay_ready. -/
def wantsByte (s : State) : Bool :=
  s.rx.state == .awaitingHeader || payloadPending s

/-! ## Handshake outputs (R45 to R49), functions of the state before the edge (70_reset_and_hazards.md R285) -/

/-- enc_ready. -/
def encReady (s : State) : Bool :=
  s.enc.txIdx == 14

/-- tx_valid. -/
def txValid (s : State) : Bool :=
  decide (s.enc.txIdx.val < 14)

/-- tx_data. -/
def txData (s : State) : Byte :=
  if txValid s then Memory.read s.enc.txBuf s.enc.txIdx.val else 0

/-- tx_last. -/
def txLast (s : State) : Bool :=
  s.enc.txIdx == 13

/-- in_ready. -/
def inReady (s : State) : Bool :=
  s.rx.state == .awaitingHeader || (payloadPending s && s.env.pins.payReady)

/-- pay_valid: the payload port is a pass-through (R47). -/
def payValid (s : State) : Bool :=
  payloadPending s && inValid s

/-- pay_data = in_data. -/
def payData (s : State) : Byte :=
  inData s

/-- The length of the response being sent. -/
def currentRespLen (s : State) : Nat :=
  respLen s.rx.respCode s.rx.x.payloadSize

/-- resp_valid. -/
def respValid (s : State) : Bool :=
  s.rx.state == .responding && decide (s.rx.respIdx.toNat < currentRespLen s)

/-- resp_data. -/
def respData (s : State) : Byte :=
  if respValid s then (respBytes s.rx.respCode s.rx.x.payloadSize).getD s.rx.respIdx.toNat 0 else 0

/-- resp_last. -/
def respLast (s : State) : Bool :=
  s.rx.state == .responding && decide (s.rx.respIdx.toNat + 1 = currentRespLen s)

/-- open_ready. -/
def openReady (s : State) : Bool :=
  s.rx.state == .terminated

/-! ## Numeric codes -/

/-- STATE's 3 bits (R24). -/
def RxState.code : RxState → BitVec 3
  | .terminated => 0
  | .awaitingHeader => 1
  | .validating => 2
  | .readingPayload => 3
  | .dispatching => 4
  | .responding => 5

/-- RESP_CODE's 3 bits (R32). -/
def RespCode.code : RespCode → BitVec 3
  | .none => 0
  | .syn => 1
  | .ack => 2
  | .fin => 3
  | .data => 4
  | .errMalformed => 5
  | .errChecksum => 6

/-- TERM_CAUSE's 3 bits (R33). -/
def TermCause.code : TermCause → BitVec 3
  | .none => 0
  | .peerClosed => 1
  | .fin => 2
  | .errMalformed => 3
  | .errChecksum => 4
  | .fault => 5

/-- The exceptions and conditions of R220. -/
inductive Exc where
  | encodingError | malformedHeaderError | checksumError | shortPayload | unexpectedFault
  deriving DecidableEq, Repr

/-- Their numbers (R220). -/
def Exc.number : Exc → Nat
  | .encodingError => 1
  | .malformedHeaderError => 2
  | .checksumError => 3
  | .shortPayload => 4
  | .unexpectedFault => 5

/-- The exception behind a framing error (R220). -/
def FramingError.exc : FramingError → Exc
  | .malformedHeader => .malformedHeaderError
  | .checksumError => .checksumError

/-- The exception an error result of Encode is (R221). -/
def EncodeResult.exc : EncodeResult → Option Exc
  | .header _ => none
  | .encodingError _ => some .encodingError

/-- The exception an error result of Decode is (R220). -/
def DecodeResult.exc : DecodeResult → Option Exc
  | .fields _ => none
  | .malformedHeader _ => some .malformedHeaderError
  | .checksumError _ _ => some .checksumError
  | .outsideDomain _ => none

/-- Field register x[i] by number, zero-extended to the widest field (R20, 00_scope.md R11). -/
def fieldRegister (h : Header) : Fin 8 → Word
  | 0 => h.sourcePort.setWidth 32
  | 1 => h.destPort.setWidth 32
  | 2 => h.sequenceNumber
  | 3 => h.ackFlag.setWidth 32
  | 4 => h.synFlag.setWidth 32
  | 5 => h.finFlag.setWidth 32
  | 6 => h.payloadSize.setWidth 32
  | 7 => h.checksum.setWidth 32

/-- The st_* outputs (R49). -/
structure StatusPins where
  stState : BitVec 3
  stHdrCnt : BitVec 4
  stHdrValid : Bool
  stShort : Bool
  stPayRem : Half
  stPayCnt : Half
  stRespCode : BitVec 3
  stRespIdx : BitVec 8
  stTermCause : BitVec 3
  stTxIdx : BitVec 4
  stSourcePort : Half
  stDestPort : Half
  stSequenceNumber : Word
  stAckFlag : Byte
  stSynFlag : Byte
  stFinFlag : Byte
  stPayloadSize : Half
  stChecksum : Byte
  stClosed : Bool
  deriving DecidableEq, Repr

/-- Each status output equals the register of its name at all times (R49, 20_memory.md R78); HDR_BUF is not exposed
(R35). -/
def status (s : State) : StatusPins :=
  { stState := s.rx.state.code, stHdrCnt := BitVec.ofNat 4 s.rx.hdrCnt.val, stHdrValid := s.rx.hdrValid
    stShort := s.rx.short, stPayRem := s.rx.payRem, stPayCnt := s.rx.payCnt, stRespCode := s.rx.respCode.code
    stRespIdx := s.rx.respIdx, stTermCause := s.rx.termCause.code, stTxIdx := BitVec.ofNat 4 s.enc.txIdx.val
    stSourcePort := s.rx.x.sourcePort, stDestPort := s.rx.x.destPort, stSequenceNumber := s.rx.x.sequenceNumber
    stAckFlag := s.rx.x.ackFlag, stSynFlag := s.rx.x.synFlag, stFinFlag := s.rx.x.finFlag
    stPayloadSize := s.rx.x.payloadSize, stChecksum := s.rx.x.checksum, stClosed := closed s }

end Sys2Proof.Machine
end

