-- ==== Sys2Proof/Machine/Classes.lean ====
section
/-! DEFINITION. The header rows of the table: the four classes as the arms of DISPATCH (spec 43_response_generator.md
R202 to R205, 42_session_sequencer.md R177), and the two illegal headers as the raising arms of VALIDATE and
RECV_HEADER (R172, R169). A row runs where the header it names is the one RX holds (log entry 5). -/

namespace Sys2Proof.Machine

/-- A class row: RX is dispatching the header h and h has class c, so RESP_CODE <- c and the response begins. -/
def runClass (c : FrameClass) (h : Header) (s : State) : Host.Outcome State Fault Refusal :=
  if s.rx.state = .dispatching ∧ s.rx.x = h ∧ classOf h = c then .next (startResponse (.ofClass c) s) else noStep s

/-- SYN (R202): answered with T_SYN. -/
def execSyn (h : Header) (s : State) : Host.Outcome State Fault Refusal :=
  runClass .syn h s

/-- ACK (R203): answered with T_ACK. -/
def execAck (h : Header) (s : State) : Host.Outcome State Fault Refusal :=
  runClass .ack h s

/-- FIN (R204): answered with T_FIN. -/
def execFin (h : Header) (s : State) : Host.Outcome State Fault Refusal :=
  runClass .fin h s

/-- DATA (R205): answered with T_DATA and the declared payload_size in decimal. -/
def execData (h : Header) (s : State) : Host.Outcome State Fault Refusal :=
  runClass .data h s

/-- BADSUM (R102, R172): RX is validating the header h, whose checksum byte is wrong, so ChecksumError is raised. -/
def execBadsum (h : Header) (s : State) : Host.Outcome State Fault Refusal :=
  if s.rx.state = .validating ∧ Memory.bytes s.rx.hdrBuf = headerBytes h ∧ checksumRight (headerBytes h) = false then
    .next (raiseFraming .checksumError s)
  else noStep s

/-- SHORTHDR (R103, R169): the stream ends after these 1 to 13 bytes, so MalformedHeaderError is raised. -/
def execShorthdr (bs : List Byte) (s : State) : Host.Outcome State Fault Refusal :=
  if s.rx.state = .awaitingHeader ∧ s.rx.hdrCnt.val = bs.length ∧ 1 ≤ bs.length ∧ bs.length ≤ 13 ∧
      (Memory.bytes s.rx.hdrBuf).take bs.length = bs ∧ endOfData s then
    .next (raiseFraming .malformedHeader s)
  else noStep s

end Sys2Proof.Machine
end

