-- ==== Sys2Proof/Machine/Codec.lean ====
section
/-! DEFINITION. The codec's functions as rows of the table (spec 40_frame_codec.md R120): they read and write no register
of FHC, and their result goes to the model's own field (log entry 6). -/

namespace Sys2Proof.Machine

/-- CHECKSUM (R121): defined on exactly 13 bytes; any other length is outside its domain and is refused. -/
def execChecksum (bs : List Byte) (s : State) : Host.Outcome State Fault Refusal :=
  if bs.length = Config.ckLen then .next (setResult (.checksum (checksum bs)) s)
  else .refused (.checksumLength bs.length)

/-- ENCODE (R124): the header, or EncodingError with the number of the first field that does not fit (R125). In either
case no register changes (R221). -/
def execEncode (t : IntTuple) (s : State) : Host.Outcome State Fault Refusal :=
  .next (setResult (.encode (encodeHeader t)) s)

/-- DECODE (R127): the fields, MalformedHeaderError or ChecksumError; more than 14 bytes are refused (R128). -/
def execDecode (bs : List Byte) (s : State) : Host.Outcome State Fault Refusal :=
  if bs.length ≤ Config.hdrLen then .next (setResult (.decode (decodeHeader bs)) s)
  else .refused (.decodeLength bs.length)

end Sys2Proof.Machine
end

