-- ==== Sys2Proof/Machine/Control.lean ====
section
/-! DEFINITION. The error path, ABORT and RESET (spec 60_exceptions.md R229, R235; 70_reset_and_hazards.md R260). -/

namespace Sys2Proof.Machine

/-- ERROR_PATH (R235): entered by raising MalformedHeaderError, which RECV_HEADER does at end-of-data after 1 to 13 bytes
(R169), or ChecksumError, which VALIDATE does on a wrong checksum (R172). Where its exception is not raised it takes no
step: R184 has no other arc. -/
def execErrorPath (e : FramingError) (s : State) : Host.Outcome State Fault Refusal :=
  match e with
  | .malformedHeader =>
    if s.rx.state = .awaitingHeader ∧ s.rx.hdrCnt ≠ 0 ∧ s.rx.hdrCnt ≠ 14 ∧ endOfData s then
      .next (raiseFraming .malformedHeader s)
    else noStep s
  | .checksumError =>
    if s.rx.state = .validating ∧ checksumRight (Memory.bytes s.rx.hdrBuf) = false then
      .next (raiseFraming .checksumError s)
    else noStep s

/-- ABORT (R229): silent end of an open session; in TERMINATED it does nothing (R183). -/
def execAbort (s : State) : Host.Outcome State Fault Refusal :=
  if s.rx.state = .terminated then noStep s else .next (terminate .fault s)

/-- RESET (R260): fires in any state. -/
def execReset (s : State) : Host.Outcome State Fault Refusal :=
  .next (resetUnits s)

end Sys2Proof.Machine
end

