-- ==== Sys2Proof/Machine/Encoder.lean ====
section
/-! DEFINITION. Unit ENC (spec 40_frame_codec.md R131 to R134). -/

namespace Sys2Proof.Machine

/-- ENC_CMD (R131): taken only when TX_IDX = 14; while ENC is busy the command waits (R133). -/
def execEncCmd (f : FieldTuple) (s : State) : Host.Outcome State Fault Refusal :=
  if s.enc.txIdx = 14 then .next (loadTx f s) else noStep s

/-- ENC_BYTE (R132): occurs only when TX_IDX < 14. -/
def execEncByte (s : State) : Host.Outcome State Fault Refusal :=
  if s.enc.txIdx = 14 then noStep s else .next (pushTx s)

end Sys2Proof.Machine
end

