-- ==== Sys2Proof/Machine/PayloadReader.lean ====
section
/-! DEFINITION. The payload reader: READ_PAYLOAD's steps (spec 42_session_sequencer.md R173 to R176) and READ_EXACT, the
function those steps compute (41_payload_reader.md R150 to R157; log entry 7). -/

namespace Sys2Proof.Machine

/-- READ_PAYLOAD (R173, R174, R175): a byte or end-of-data while PAY_REM > 0, completion when PAY_REM = 0.
The byte is the stream's next one and end-of-data is signalled by the stream (00_scope.md R12; log entry 13). -/
def execReadPayload (e : PayloadEvent) (s : State) : Host.Outcome State Fault Refusal :=
  if s.rx.state = .readingPayload then
    match e with
    | .byte b => if s.rx.payRem ≠ 0 ∧ deliversByte b s then .next (passPayload [b] (consume 1 s)) else noStep s
    | .eos =>
      if s.rx.payRem ≠ 0 ∧ endOfData s then .next (enterState .dispatching { s with rx := { s.rx with short := true } })
      else noStep s
    | .done => if s.rx.payRem = 0 then .next (enterState .dispatching s) else noStep s
  else noStep s

/-- READ_EXACT (R150), run as READ_PAYLOAD with the n bytes still missing: it passes on what the stream has of them;
then it returns with all n (R154), or with fewer at end-of-data, which sets SHORT (R153), or it goes on blocking with
what it has taken so far (R155). The stream here is the bound one as a whole: its bytes and `ends` are all that this step
looks at, and the levels of in_valid, in_eos and pay_ready are not; that is the model's choice (log entry 7). -/
def execReadExact (n : Half) (s : State) : Host.Outcome State Fault Refusal :=
  if s.rx.state = .readingPayload ∧ s.rx.payRem = n then
    let got := s.env.stream.bytes.take n.toNat
    let t := passPayload got (consume got.length s)
    if got.length = n.toNat then .next (setResult (.read got) (enterState .dispatching t))
    else if s.env.stream.ends then
      .next (setResult (.read got) (enterState .dispatching { t with rx := { t.rx with short := true } }))
    else .next t
  else noStep s

end Sys2Proof.Machine
end

