-- ==== Sys2Proof/Machine/Sequencer.lean ====
section
/-! DEFINITION. The session sequencer's steps (spec 42_session_sequencer.md R165 to R183). -/

namespace Sys2Proof.Machine

/-- OPEN (R166): fires in TERMINATED; in any other state it waits. RX_POS counts from here (R26). -/
def execOpen (s : State) : Host.Outcome State Fault Refusal :=
  if s.rx.state = .terminated then
    let t := clearFrame s
    .next { t with rx := { t.rx with termCause := .none, state := .awaitingHeader }, env := { t.env with rxPos := 0 } }
  else noStep s

/-- RECV_HEADER (R167, R168, R169). HDR_CNT is 0 to 13 in AWAITING_HEADER; 14 there is never taken and is refused, on a
byte and on end-of-data alike (00_scope.md R14; log entry 9). A byte that is not the stream's next one, or end-of-data
that the stream does not signal, is no event (R12; log entry 13). -/
def execRecvHeader (e : StreamEvent) (s : State) : Host.Outcome State Fault Refusal :=
  if s.rx.state = .awaitingHeader then
    if s.rx.hdrCnt = 14 then .refused .neverTaken
    else
      match e with
      | .byte b => if deliversByte b s then .next (collectHeaderByte b (consume 1 s)) else noStep s
      | .eos =>
        if endOfData s then
          if s.rx.hdrCnt = 0 then .next (terminate .peerClosed s) else .next (raiseFraming .malformedHeader s)
        else noStep s
  else noStep s

/-- VALIDATE (R171, R172): DECODE applied to HDR_BUF's 14 bytes. -/
def execValidate (s : State) : Host.Outcome State Fault Refusal :=
  if s.rx.state = .validating then
    match decodeHeader (Memory.bytes s.rx.hdrBuf) with
    | .fields h => .next (loadFields h s)
    | .checksumError _ _ => .next (raiseFraming .checksumError s)
    | .malformedHeader _ => .next (raiseFraming .malformedHeader s)
    | .outsideDomain n => .refused (.decodeLength n)
  else noStep s

/-- DISPATCH (R177): Classify on the three flag registers. -/
def execDispatch (s : State) : Host.Outcome State Fault Refusal :=
  if s.rx.state = .dispatching then .next (startResponse (.ofClass (classOf s.rx.x)) s) else noStep s

/-- RESPOND, the byte step (R178). RESP_CODE = NONE and RESP_IDX > RespLen are never taken in RESPONDING. -/
def execRespond (s : State) : Host.Outcome State Fault Refusal :=
  if s.rx.state = .responding then
    if s.rx.respIdx.toNat < respLen s.rx.respCode s.rx.x.payloadSize then .next (pushResponse s)
    else if s.rx.respIdx.toNat = respLen s.rx.respCode s.rx.x.payloadSize ∧ s.rx.respCode ≠ .none then noStep s
    else .refused .neverTaken
  else noStep s

/-- NEXT's three arms, tested in this order (R179 to R182). -/
def nextArm (s : State) : State :=
  if s.rx.respCode = .errMalformed then terminate .errMalformed s
  else if s.rx.respCode = .errChecksum then terminate .errChecksum s
  else if isSet s.rx.x.finFlag then terminate .fin s
  else enterState .awaitingHeader (clearFrame s)

/-- NEXT (R179): fires when the whole response has been accepted. -/
def execNext (s : State) : Host.Outcome State Fault Refusal :=
  if s.rx.state = .responding then
    if s.rx.respIdx.toNat < respLen s.rx.respCode s.rx.x.payloadSize then noStep s
    else if s.rx.respIdx.toNat = respLen s.rx.respCode s.rx.x.payloadSize ∧ s.rx.respCode ≠ .none then .next (nextArm s)
    else .refused .neverTaken
  else noStep s

end Sys2Proof.Machine
end

