-- ==== Sys2Proof/Machine/Dispatch.lean ====
section
/-! DEFINITION. One arm per row of spec/opcode_table.json. -/

namespace Sys2Proof.Machine

def exec (i : Instr) (s : State) : Host.Outcome State Fault Refusal :=
  match i with
  | .syn h => Sys2Proof.Machine.execSyn h s
  | .ack h => Sys2Proof.Machine.execAck h s
  | .fin h => Sys2Proof.Machine.execFin h s
  | .data h => Sys2Proof.Machine.execData h s
  | .badsum h => Sys2Proof.Machine.execBadsum h s
  | .shorthdr bs => Sys2Proof.Machine.execShorthdr bs s
  | .checksum bs => Sys2Proof.Machine.execChecksum bs s
  | .encode t => Sys2Proof.Machine.execEncode t s
  | .decode bs => Sys2Proof.Machine.execDecode bs s
  | .readExact n => Sys2Proof.Machine.execReadExact n s
  | .encCmd f => Sys2Proof.Machine.execEncCmd f s
  | .encByte => Sys2Proof.Machine.execEncByte s
  | .openSession => Sys2Proof.Machine.execOpen s
  | .recvHeader e => Sys2Proof.Machine.execRecvHeader e s
  | .validate => Sys2Proof.Machine.execValidate s
  | .readPayload e => Sys2Proof.Machine.execReadPayload e s
  | .dispatch => Sys2Proof.Machine.execDispatch s
  | .respond => Sys2Proof.Machine.execRespond s
  | .next => Sys2Proof.Machine.execNext s
  | .errorPath e => Sys2Proof.Machine.execErrorPath e s
  | .abort => Sys2Proof.Machine.execAbort s
  | .reset => Sys2Proof.Machine.execReset s

end Sys2Proof.Machine
end

