-- ==== Sys2Proof/Machine/Edge.lean ====
section
/-! DEFINITION. One rising edge of clk: which operation each unit takes (spec 10_state.md R50, 30_encoding.md R101), and
the edge itself. -/

namespace Sys2Proof.Machine

/-- The InByte or InEos operation of the present STATE: RECV_HEADER or READ_PAYLOAD (R101). -/
def streamOperation (s : State) (e : StreamEvent) : Instr :=
  match s.rx.state, e with
  | .readingPayload, .byte b => .readPayload (.byte b)
  | .readingPayload, .eos => .readPayload .eos
  | _, e => .recvHeader e

/-- The internal step of the present STATE, if one is enabled (R50 item 6). -/
def internalOperation (s : State) : Option Instr :=
  match s.rx.state with
  | .validating => some .validate
  | .readingPayload => if s.rx.payRem = 0 then some (.readPayload .done) else none
  | .dispatching => some .dispatch
  | .responding => if s.rx.respIdx.toNat < currentRespLen s then none else some .next
  | .terminated => none
  | .awaitingHeader => none

/-- RX's operation at an edge without rst: the first of R50's items 1 to 6 that applies, none for item 7. -/
def rxOperation (s : State) : Option Instr :=
  if s.env.pins.abort && !closed s then some .abort
  else if s.env.pins.openValid && openReady s then some .openSession
  else if inValid s && inReady s then some (streamOperation s (.byte (inData s)))
  else if wantsByte s && endOfData s then some (streamOperation s .eos)
  else if respValid s && s.env.pins.respReady then some .respond
  else internalOperation s

/-- ENC's operation at the same edge: EncCmd or TxAccept, which cannot both apply (R50). -/
def encOperation (s : State) : Option Instr :=
  if s.env.pins.encValid && encReady s then some (.encCmd s.env.pins.enc)
  else if txValid s && s.env.pins.txReady then some .encByte
  else none

/-- Run an operation, if there is one. -/
def execIf (o : Option Instr) (s : State) : Host.Outcome State Fault Refusal :=
  match o with
  | some i => exec i s
  | none => noStep s

/-- Go on from a next state; a fault or a refusal stands. -/
def thenRun (r : Host.Outcome State Fault Refusal) (f : State → Host.Outcome State Fault Refusal) :
    Host.Outcome State Fault Refusal :=
  match r with
  | .next s => f s
  | .fault e => .fault e
  | .refused e => .refused e

/-- Operations one after another. -/
def execAll : List Instr → State → Host.Outcome State Fault Refusal
  | [], s => .next s
  | i :: is, s => thenRun (exec i s) (execAll is)

/-- One rising edge with the pins at their present levels (R50): RESET and nothing else while rst is high; otherwise each
unit takes at most one operation, both chosen from the state before the edge (R44). -/
def clockEdge (s : State) : Host.Outcome State Fault Refusal :=
  if s.env.pins.rst then exec .reset s
  else thenRun (execIf (rxOperation s) s) (execIf (encOperation s))

end Sys2Proof.Machine
end

