-- ==== Sys2Proof/Machine/Fetch.lean ====
section
/-! DEFINITION. How an operation's word is placed so that the next step runs it (log entry 3): RX or ENC is put where
the operation fires, as the spec says it is reached. -/

namespace Sys2Proof.Machine

/-- RX with the header h collected whole in HDR_BUF and STATE at v; the other per-frame registers cleared (R167). -/
def holdHeader (h : Header) (v : RxState) (s : State) : State :=
  let t := clearFrame s
  { t with rx := { t.rx with
      hdrBuf := Memory.store [] 0 (headerBytes h), hdrCnt := 14, termCause := .none, state := v } }

/-- RX after a successful VALIDATE of h and a whole payload: in DISPATCHING (R171, R174). -/
def holdFrame (h : Header) (s : State) : State :=
  let t := loadFields h (holdHeader h .validating s)
  { t with rx := { t.rx with payRem := 0, payCnt := h.payloadSize, state := .dispatching } }

/-- RX in AWAITING_HEADER with these header bytes collected (R167). -/
def holdPartial (bs : List Byte) (s : State) : State :=
  let t := clearFrame s
  { t with rx := { t.rx with
      hdrBuf := Memory.store [] 0 bs, hdrCnt := Fin.ofNat 15 bs.length, termCause := .none, state := .awaitingHeader } }

/-- The bound stream at its end: no byte left, end-of-data for ever (10_state.md R51 b). -/
def atStreamEnd (s : State) : State :=
  { s with env := { s.env with stream := { bytes := [], ends := true } } }

/-- A header with payload_size n, zero elsewhere, and the right checksum. -/
def headerOfSize (n : Half) : Header :=
  headerOfBytes (encodeFields { Pins.low.enc with payloadSize := n })

/-- The state in which an operation given as a table word fires. -/
def prepare (i : Instr) (s : State) : State :=
  match i with
  | .syn h => holdFrame h s
  | .ack h => holdFrame h s
  | .fin h => holdFrame h s
  | .data h => holdFrame h s
  | .badsum h => holdHeader h .validating s
  | .shorthdr bs => atStreamEnd (holdPartial bs s)
  | .recvHeader e =>
    let t := holdPartial [] s
    match e with
    | .byte b => { t with env := { t.env with stream := { t.env.stream with bytes := b :: t.env.stream.bytes } } }
    | .eos => atStreamEnd t
  | .readExact n => loadFields (headerOfSize n) (holdHeader (headerOfSize n) .validating s)
  | .encCmd _ => { s with enc := { s.enc with txIdx := 14 } }
  | .checksum _ => s
  | .encode _ => s
  | .decode _ => s
  | .encByte => s
  | .openSession => s
  | .validate => s
  | .readPayload _ => s
  | .dispatch => s
  | .respond => s
  | .next => s
  | .errorPath _ => s
  | .abort => s
  | .reset => s

/-- A move put in front of the moves to come. -/
def pushMove (m : Move) (s : State) : State :=
  { s with env := { s.env with moves := m :: s.env.moves } }

/-- A word put where the next step fetches it: as the first move to come, with the unit ready for it. -/
def placeWord (w : OpWord) (s : State) : State :=
  pushMove (.event w) (match decode w with
    | .instr i => prepare i s
    | .reject _ => s)

end Sys2Proof.Machine
end

