-- ==== Sys2Proof/Machine/Step.lean ====
section
/-! DEFINITION. One step: the environment's next move, or, when no move is left, one more clock edge at the pin levels
as they stand (spec 00_scope.md R12, R13; 10_state.md R50; log entries 1 to 3). -/

namespace Sys2Proof.Machine

/-- The first move taken off, or none left. An event move runs its operation without looking at rst, abort or any other
request or ready pin: while one of them is held high an operation given as an event runs all the same, and RESET and
Abort come first only at an edge. The spec does not say how labelled events mix with held levels, so that is the model's
choice (log entry 20). -/
def step (s : State) : Host.Outcome State Fault Refusal :=
  match s.env.moves with
  | [] => clockEdge s
  | .edge p :: rest => clockEdge { s with env := { s.env with pins := p, moves := rest } }
  | .bind d :: rest => .next { s with env := { s.env with stream := d, moves := rest } }
  | .event w :: rest =>
    match decode w with
    | .instr i => exec i { s with env := { s.env with moves := rest } }
    | .reject r => .refused (.undecodable r)

/-- The table word of nbits bits, placed so that the very next step runs it (log entries 3 and 4). -/
def State.withFetchWord (s : State) (nbits w : Nat) : State :=
  placeWord (tableWord nbits w) s

end Sys2Proof.Machine
end

