-- ==== Sys2Proof/Machine/Session.lean ====
section
/-! DEFINITION. The big step of a session (spec 42_session_sequencer.md R185): what a session on a finite stream answers,
passes on and leaves unread. The machine's step does not use it; it is what the small steps are compared with. -/

namespace Sys2Proof.Machine

/-- A session's outputs (R185), with the suffix of the stream that RX never takes (10_state.md R39 a). -/
structure SessionResult where
  responses : List (List Byte)
  payloads : List (List Byte)
  cause : TermCause
  unread : List Byte
  deriving DecidableEq, Repr

/-- One more frame in front of a session. -/
def SessionResult.cons (r p : List Byte) (t : SessionResult) : SessionResult :=
  { t with responses := r :: t.responses, payloads := p :: t.payloads }

/-- The big step with a bound on the number of headers; every frame takes at least 14 bytes. -/
def sessionWithin : Nat → List Byte → SessionResult
  | 0, d => ⟨[], [], .peerClosed, d⟩
  | k + 1, d =>
    if d.length = 0 then ⟨[], [], .peerClosed, []⟩
    else if d.length < 14 then ⟨[respBytes .errMalformed 0], [], .errMalformed, []⟩
    else
      match decodeHeader (d.take 14) with
      | .fields h =>
        let p := (d.drop 14).take h.payloadSize.toNat
        let r := respBytes (.ofClass (classOf h)) h.payloadSize
        let rest := (d.drop 14).drop h.payloadSize.toNat
        if isSet h.finFlag then ⟨[r], [p], .fin, rest⟩
        else (sessionWithin k rest).cons r p
      | _ => ⟨[respBytes .errChecksum 0], [], .errChecksum, d.drop 14⟩

/-- Session(d) (R185). -/
def session (d : List Byte) : SessionResult :=
  sessionWithin (d.length + 1) d

/-- The pins of R185's environment: the source always offers, the payload and response sinks are always ready, no
Abort, no reset, no further Open. -/
def sessionPins : Pins :=
  { Pins.low with inValid := true, payReady := true, respReady := true }

end Sys2Proof.Machine
end

