-- ==== Sys2Proof/Safety.lean ====
section
/-! DEFINITION. What counts as a safe state: the relations between registers that the spec says hold in every state
reached from reset (spec 10_state.md R21, R25, R27, R28, R33, R35; 43_response_generator.md R210;
93_implementation_defined.md U12), and the arcs of 42_session_sequencer.md R184. -/

namespace Sys2Proof.Machine

/-- The field registers hold the fields of the verified header in HDR_BUF exactly when HDR_VALID is 1; while it is 0 they
and the per-frame payload registers hold 0 (R21, R27, R28). -/
structure FieldsInv (r : RxRegs) : Prop where
  valid_fields : r.hdrValid = true → decodeHeader (Memory.bytes r.hdrBuf) = .fields r.x
  valid_count : r.hdrValid = true → r.hdrCnt = 14
  invalid_zero : r.hdrValid = false →
    r.x = zeroHeader ∧ r.payRem = 0 ∧ r.payCnt = 0 ∧ r.short = false
  /-- PAY_CNT + PAY_REM = x[6], without wrapping (R25). -/
  payload_sum : r.payCnt.toNat + r.payRem.toNat = r.x.payloadSize.toNat
  /-- SHORT = 1 only with bytes missing (R28). -/
  short_missing : r.short = true → r.payRem ≠ 0

/-- The response registers: RESP_IDX never passes RespLen, and it is 0 where there is no response (R25, R32, R210). -/
structure ResponseInv (r : RxRegs) : Prop where
  index_bound : r.respIdx.toNat ≤ respLen r.respCode r.x.payloadSize
  class_code : r.hdrValid = true → r.respCode = .none ∨ r.respCode = .ofClass (classOf r.x)
  error_code : r.hdrValid = false →
    r.respCode = .none ∨ r.respCode = .errMalformed ∧ 1 ≤ r.hdrCnt.val ∧ r.hdrCnt.val ≤ 13 ∨
      r.respCode = .errChecksum ∧ r.hdrCnt = 14 ∧ checksumRight (Memory.bytes r.hdrBuf) = false

/-- Why and how a session ended (R33): NONE in TERMINATED only right after reset, and each cause with the registers its
step leaves (R43, R168, R180, R181, R183). -/
def EndedInv (r : RxRegs) : Prop :=
  match r.termCause with
  | .none => r = .reset
  | .peerClosed => r.hdrCnt = 0 ∧ r.hdrValid = false ∧ r.respCode = .none
  | .fin => r.hdrValid = true ∧ r.x.finFlag = 1 ∧ r.respCode ≠ .none ∧
      r.respIdx.toNat = respLen r.respCode r.x.payloadSize
  | .errMalformed => r.respCode = .errMalformed ∧ r.respIdx.toNat = respLen r.respCode r.x.payloadSize
  | .errChecksum => r.respCode = .errChecksum ∧ r.respIdx.toNat = respLen r.respCode r.x.payloadSize
  | .fault => True

/-- What each value of STATE says about the other registers (R24, R165 to R183, U12). -/
def StateInv (r : RxRegs) : Prop :=
  match r.state with
  | .terminated => EndedInv r
  | .awaitingHeader =>
    r.hdrCnt.val ≤ 13 ∧ r.hdrValid = false ∧ r.respCode = .none ∧ r.termCause = .none ∧
      ∀ a, r.hdrCnt.val ≤ a → Memory.read r.hdrBuf a = 0
  | .validating => r.hdrCnt = 14 ∧ r.hdrValid = false ∧ r.respCode = .none ∧ r.termCause = .none
  | .readingPayload => r.hdrValid = true ∧ r.respCode = .none ∧ r.termCause = .none ∧ r.short = false
  | .dispatching =>
    r.hdrValid = true ∧ r.respCode = .none ∧ r.termCause = .none ∧ (r.short = true ↔ r.payRem ≠ 0)
  | .responding =>
    r.respCode ≠ .none ∧ r.termCause = .none ∧ (r.hdrValid = true → (r.short = true ↔ r.payRem ≠ 0))

/-- The invariant of FHC: both buffers in canonical form, and the relations above. -/
structure State.Inv (s : State) : Prop where
  hdr_wf : Memory.wf s.rx.hdrBuf = true
  tx_wf : Memory.wf s.enc.txBuf = true
  fields : FieldsInv s.rx
  response : ResponseInv s.rx
  state : StateInv s.rx

/-- The rows of the transition table of STATE (R184), with RESET's (R260): the operation, the state it fires in, and
the value of STATE it leads to. The header rows and READ_EXACT appear on the rows whose arms they are (log entries 5
and 7). -/
inductive Arc : Instr → State → RxState → Prop where
  | openSession {s : State} : s.rx.state = .terminated → Arc .openSession s .awaitingHeader
  | headerByte {s : State} {b : Byte} : s.rx.state = .awaitingHeader → s.rx.hdrCnt.val ≤ 12 →
      deliversByte b s = true → Arc (.recvHeader (.byte b)) s .awaitingHeader
  | lastHeaderByte {s : State} {b : Byte} : s.rx.state = .awaitingHeader → s.rx.hdrCnt.val = 13 →
      deliversByte b s = true → Arc (.recvHeader (.byte b)) s .validating
  | peerClosed {s : State} : s.rx.state = .awaitingHeader → s.rx.hdrCnt.val = 0 →
      endOfData s = true → Arc (.recvHeader .eos) s .terminated
  | shortHeader {s : State} : s.rx.state = .awaitingHeader → 1 ≤ s.rx.hdrCnt.val → s.rx.hdrCnt.val ≤ 13 →
      endOfData s = true → Arc (.recvHeader .eos) s .responding
  | shortHeaderRow {s : State} {bs : List Byte} : s.rx.state = .awaitingHeader → 1 ≤ bs.length → bs.length ≤ 13 →
      s.rx.hdrCnt.val = bs.length → (Memory.bytes s.rx.hdrBuf).take bs.length = bs → endOfData s = true →
      Arc (.shorthdr bs) s .responding
  | raiseMalformed {s : State} : s.rx.state = .awaitingHeader → 1 ≤ s.rx.hdrCnt.val → s.rx.hdrCnt.val ≤ 13 →
      endOfData s = true → Arc (.errorPath .malformedHeader) s .responding
  | validated {s : State} : s.rx.state = .validating → checksumRight (Memory.bytes s.rx.hdrBuf) = true →
      Arc .validate s .readingPayload
  | badChecksum {s : State} : s.rx.state = .validating → checksumRight (Memory.bytes s.rx.hdrBuf) = false →
      Arc .validate s .responding
  | badChecksumRow {s : State} {h : Header} : s.rx.state = .validating → Memory.bytes s.rx.hdrBuf = headerBytes h →
      checksumRight (headerBytes h) = false → Arc (.badsum h) s .responding
  | raiseChecksum {s : State} : s.rx.state = .validating → checksumRight (Memory.bytes s.rx.hdrBuf) = false →
      Arc (.errorPath .checksumError) s .responding
  | payloadByte {s : State} {b : Byte} : s.rx.state = .readingPayload → s.rx.payRem ≠ 0 →
      deliversByte b s = true → Arc (.readPayload (.byte b)) s .readingPayload
  | payloadDone {s : State} : s.rx.state = .readingPayload → s.rx.payRem = 0 → Arc (.readPayload .done) s .dispatching
  | payloadShort {s : State} : s.rx.state = .readingPayload → s.rx.payRem ≠ 0 → endOfData s = true →
      Arc (.readPayload .eos) s .dispatching
  | readWhole {s : State} : s.rx.state = .readingPayload →
      s.rx.payRem.toNat ≤ s.env.stream.bytes.length ∨ s.env.stream.ends = true →
      Arc (.readExact s.rx.payRem) s .dispatching
  | readBlocks {s : State} : s.rx.state = .readingPayload → s.env.stream.bytes.length < s.rx.payRem.toNat →
      s.env.stream.ends = false → Arc (.readExact s.rx.payRem) s .readingPayload
  | dispatched {s : State} : s.rx.state = .dispatching → Arc .dispatch s .responding
  | classRow {s : State} {c : FrameClass} : s.rx.state = .dispatching → classOf s.rx.x = c →
      Arc (classInstr c s.rx.x) s .responding
  | respByte {s : State} : s.rx.state = .responding →
      s.rx.respIdx.toNat < respLen s.rx.respCode s.rx.x.payloadSize → Arc .respond s .responding
  | errorAnswered {s : State} : s.rx.state = .responding →
      s.rx.respIdx.toNat = respLen s.rx.respCode s.rx.x.payloadSize →
      s.rx.respCode = .errMalformed ∨ s.rx.respCode = .errChecksum → Arc .next s .terminated
  | finAnswered {s : State} : s.rx.state = .responding →
      s.rx.respIdx.toNat = respLen s.rx.respCode s.rx.x.payloadSize →
      s.rx.respCode ≠ .none → s.rx.respCode ≠ .errMalformed → s.rx.respCode ≠ .errChecksum →
      isSet s.rx.x.finFlag = true → Arc .next s .terminated
  | continues {s : State} : s.rx.state = .responding →
      s.rx.respIdx.toNat = respLen s.rx.respCode s.rx.x.payloadSize →
      s.rx.respCode ≠ .none → s.rx.respCode ≠ .errMalformed → s.rx.respCode ≠ .errChecksum →
      isSet s.rx.x.finFlag = false → Arc .next s .awaitingHeader
  | aborted {s : State} : s.rx.state ≠ .terminated → Arc .abort s .terminated
  | reset {s : State} : Arc .reset s .terminated

end Sys2Proof.Machine
end

