-- ==== Sys2Proof/Certificates/Slice0/Obligations.lean ====
section
/-! DEFINITION. The statements about FHC, from the numbered rules of spec/. Each is a `Prop` about `exec`, `step` or the
functions they call; none is proved here. -/

open Sys2Proof
open Sys2Proof.Machine

/-! ## Encodings -/

/-- 30_encoding.md R90, R95, R100 to R103, R112: the decoder gives back every well-formed instruction from its word,
with every operand at every value. The words of operations are the model's layout (log entry 4). -/
def Obligations.DecodeInvertsEncode : Prop :=
  ∀ i : Instr, wellFormed i = true → decode (encode i) = .instr i

/-- Header words written out from 95_test_vectors.md (V-E3 to V-E6, V-D2, P4) decode to the rows they stand for. Two
operand words written out from the layouts of 30_encoding.md R91 (X1's fields) and R95 (a 16-bit big-endian count) decode
to ENC_CMD and READ_EXACT; that a selector goes with them, and which, is the model's choice, log entry 4. -/
def Obligations.SpecWordsDecodeToTheirRows : Prop :=
  decode ⟨.header, [0x04, 0xD2, 0x13, 0x88, 0, 0, 0, 1, 0, 1, 0, 0, 0, 0x73]⟩ =
      .instr (.syn ⟨1234, 5000, 1, 0, 1, 0, 0, 0x73⟩) ∧
    decode ⟨.header, [0x04, 0xD2, 0x13, 0x88, 0, 0, 0, 2, 1, 0, 0, 0, 0, 0x74]⟩ =
      .instr (.ack ⟨1234, 5000, 2, 1, 0, 0, 0, 0x74⟩) ∧
    decode ⟨.header, [0x04, 0xD2, 0x13, 0x88, 0, 0, 0, 3, 0, 0, 1, 0, 0, 0x75]⟩ =
      .instr (.fin ⟨1234, 5000, 3, 0, 0, 1, 0, 0x75⟩) ∧
    decode ⟨.header, [0x04, 0xD2, 0x13, 0x88, 0, 0, 0, 4, 0, 0, 0, 0, 5, 0x7A]⟩ =
      .instr (.data ⟨1234, 5000, 4, 0, 0, 0, 5, 0x7A⟩) ∧
    decode ⟨.header, [0x04, 0xD2, 0x13, 0x88, 0, 0, 0, 4, 0, 0, 0, 0, 5, 0x7B]⟩ =
      .instr (.badsum ⟨1234, 5000, 4, 0, 0, 0, 5, 0x7B⟩) ∧
    decode ⟨.header, [0x04, 0xD2, 0x13, 0x88, 0, 0, 0, 4, 0, 0]⟩ =
      .instr (.shorthdr [0x04, 0xD2, 0x13, 0x88, 0, 0, 0, 4, 0, 0]) ∧
    decode ⟨.encPort, [0x9C, 0x40, 0x13, 0x88, 0x12, 0x34, 0x56, 0x78, 1, 0, 0, 1, 0x2C]⟩ =
      .instr (.encCmd ⟨40000, 5000, 305419896, 1, 0, 0, 300⟩) ∧
    decode ⟨.readExactFunction, [0x01, 0x02]⟩ = .instr (.readExact 258)

/-- 40_frame_codec.md R123: with the checksum byte kept, flipping any one bit of a valid header makes Decode raise
ChecksumError, wherever the bit is in the 14 bytes. -/
def Obligations.SingleBitFlipsAreDetected : Prop :=
  ∀ (bs : List Byte) (h : Header) (i k : Nat), decodeHeader bs = .fields h → i < 14 → k < 8 →
    ∃ c d, decodeHeader (bs.set i (bs.getD i 0 ^^^ (1#8 <<< k))) = .checksumError c d

/-- 40_frame_codec.md R122 a, b, d: the checksum is a chain of wrapping 8-bit additions, does not depend on the order of
the bytes, and grows by what one byte grows by. -/
def Obligations.ChecksumIsAWrappingSum : Prop :=
  (∀ bs : List Byte, checksum bs = bs.foldl (fun acc b => acc + b) 0) ∧
    (∀ bs bs' : List Byte, bs.Perm bs' → checksum bs = checksum bs') ∧
    ∀ (bs : List Byte) (i : Nat) (d : Byte), i < bs.length →
      checksum (bs.set i (bs.getD i 0 + d)) = checksum bs + d

/-- 30_encoding.md R102: for each choice of the first 13 bytes exactly one checksum byte makes a valid header. -/
def Obligations.EachHeaderHasOneChecksum : Prop :=
  ∀ bs : List Byte, bs.length = 13 →
    ∃ c : Byte, ∀ d : Byte, (∃ h, decodeHeader (bs ++ [d]) = .fields h) ↔ d = c

/-- 40_frame_codec.md R130: the four round-trip laws of the codec. -/
def Obligations.CodecRoundTrip : Prop :=
  (∀ t : IntTuple, firstMisfit t = none →
      ∃ bs h, encodeHeader t = .header bs ∧ decodeHeader bs = .fields h ∧ widen (fieldsOf h) = t) ∧
    (∀ bs : List Byte, bs.length = 14 → checksum (bs.take 13) = bs.getD 13 0 →
      ∃ h, decodeHeader bs = .fields h ∧ encodeHeader (widen (fieldsOf h)) = .header bs) ∧
    (∀ (t : IntTuple) (bs : List Byte), encodeHeader t = .header bs → ∃ h, decodeHeader bs = .fields h) ∧
    ∀ (t u : IntTuple) (bs : List Byte), encodeHeader t = .header bs → encodeHeader u = .header bs → t = u

/-! ## The codec's rows -/

/-- 40_frame_codec.md R121: CHECKSUM of 13 bytes is the remainder of their integer sum modulo 256; nothing else changes
(the result goes to the model's own field, log entry 6). Any other length is outside its domain and is refused
(95_test_vectors.md 2.1). -/
def Obligations.ChecksumRowGivesTheSum : Prop :=
  ∀ (bs : List Byte) (s : State),
    (bs.length = 13 →
      ∃ b : Byte, b.toNat = (bs.map BitVec.toNat).sum % 256 ∧
        exec (.checksum bs) s = .next { s with env := { s.env with result := .checksum b } }) ∧
    (bs.length ≠ 13 → exec (.checksum bs) s = .refused (.checksumLength bs.length))

/-- 40_frame_codec.md R124, R95, R97: ENCODE of an in-range tuple gives the 14 bytes of the layout, each field
big-endian, and the checksum of the first 13; no register changes. -/
def Obligations.EncodeSpellsTheFields : Prop :=
  ∀ (sp dp seq ack syn fin len : Nat) (s : State),
    sp < 2 ^ 16 → dp < 2 ^ 16 → seq < 2 ^ 32 → ack < 2 ^ 8 → syn < 2 ^ 8 → fin < 2 ^ 8 → len < 2 ^ 16 →
    ∃ bs : List Byte,
      bs.map BitVec.toNat =
          [sp / 256, sp % 256, dp / 256, dp % 256, seq / 2 ^ 24, seq / 2 ^ 16 % 256, seq / 256 % 256, seq % 256,
            ack, syn, fin, len / 256, len % 256,
            (sp / 256 + sp % 256 + dp / 256 + dp % 256 + seq / 2 ^ 24 + seq / 2 ^ 16 % 256 + seq / 256 % 256 +
              seq % 256 + ack + syn + fin + len / 256 + len % 256) % 256] ∧
        exec (.encode ⟨sp, dp, seq, ack, syn, fin, len⟩) s =
          .next { s with env := { s.env with result := .encode (.header bs) } }

/-- 40_frame_codec.md R125: ENCODE raises EncodingError on the first field that is negative or too large, truncates
nothing and changes no register; a tuple at pin widths never raises it. -/
def Obligations.EncodeRejectsWhatDoesNotFit : Prop :=
  (∀ (t : IntTuple) (s : State) (k : Fin 7),
      (∀ j : Fin 7, j < k → 0 ≤ ([t.sourcePort, t.destPort, t.sequenceNumber, t.ack, t.syn, t.fin, t.payloadSize].getD j 0) ∧
        ([t.sourcePort, t.destPort, t.sequenceNumber, t.ack, t.syn, t.fin, t.payloadSize].getD j 0) <
          (2 : Int) ^ ([16, 16, 32, 8, 8, 8, 16].getD j 0)) →
      ¬ (0 ≤ ([t.sourcePort, t.destPort, t.sequenceNumber, t.ack, t.syn, t.fin, t.payloadSize].getD k 0) ∧
        ([t.sourcePort, t.destPort, t.sequenceNumber, t.ack, t.syn, t.fin, t.payloadSize].getD k 0) <
          (2 : Int) ^ ([16, 16, 32, 8, 8, 8, 16].getD k 0)) →
      exec (.encode t) s = .next { s with env := { s.env with result := .encode (.encodingError k) } }) ∧
    ∀ (f : FieldTuple) (s : State), ∃ bs : List Byte,
      exec (.encode (widen f)) s = .next { s with env := { s.env with result := .encode (.header bs) } }

/-- 40_frame_codec.md R127, R128, R129: DECODE looks at the length first, then at the checksum, and only then gives the
fields, flags as raw bytes; more than 14 bytes are refused. -/
def Obligations.DecodeChecksLengthThenChecksum : Prop :=
  ∀ (bs : List Byte) (s : State),
    (bs.length < 14 →
      exec (.decode bs) s =
        .next { s with env := { s.env with result := .decode (.malformedHeader bs.length) } }) ∧
    (bs.length = 14 → ((bs.take 13).map BitVec.toNat).sum % 256 ≠ (bs.getD 13 0).toNat →
      ∃ c : Byte, c.toNat = ((bs.take 13).map BitVec.toNat).sum % 256 ∧
        exec (.decode bs) s =
          .next { s with env := { s.env with result := .decode (.checksumError c (bs.getD 13 0)) } }) ∧
    (bs.length = 14 → ((bs.take 13).map BitVec.toNat).sum % 256 = (bs.getD 13 0).toNat →
      ∃ h : Header,
        exec (.decode bs) s = .next { s with env := { s.env with result := .decode (.fields h) } } ∧
        h.sourcePort.toNat = (bs.getD 0 0).toNat * 256 + (bs.getD 1 0).toNat ∧
        h.destPort.toNat = (bs.getD 2 0).toNat * 256 + (bs.getD 3 0).toNat ∧
        h.sequenceNumber.toNat = (bs.getD 4 0).toNat * 2 ^ 24 + (bs.getD 5 0).toNat * 2 ^ 16 +
          (bs.getD 6 0).toNat * 2 ^ 8 + (bs.getD 7 0).toNat ∧
        h.ackFlag = bs.getD 8 0 ∧ h.synFlag = bs.getD 9 0 ∧ h.finFlag = bs.getD 10 0 ∧
        h.payloadSize.toNat = (bs.getD 11 0).toNat * 256 + (bs.getD 12 0).toNat ∧
        h.checksum = bs.getD 13 0) ∧
    (14 < bs.length → exec (.decode bs) s = .refused (.decodeLength bs.length))

/-! ## Buffers -/

/-- 20_memory.md R62: MemRead is the big-endian integer of 1, 2 or 4 bytes inside the buffer, whatever the alignment. -/
def Obligations.MemReadIsBigEndian : Prop :=
  ∀ (m : Memory) (a : Nat),
    (a ≤ 13 → memRead m a 1 = some (Memory.read m a).toNat) ∧
    (a ≤ 12 → memRead m a 2 = some ((Memory.read m a).toNat * 256 + (Memory.read m (a + 1)).toNat)) ∧
    (a ≤ 10 → memRead m a 4 =
      some ((Memory.read m a).toNat * 2 ^ 24 + (Memory.read m (a + 1)).toNat * 2 ^ 16 +
        (Memory.read m (a + 2)).toNat * 2 ^ 8 + (Memory.read m (a + 3)).toNat))

/-- 20_memory.md R63: MemWrite spells its value big-endian at its offset, MemRead gives it back, every other byte is as
before, and the buffer stays in canonical form. -/
def Obligations.MemWriteThenMemRead : Prop :=
  ∀ (m : Memory) (a n v : Nat), Memory.wf m = true → n = 1 ∨ n = 2 ∨ n = 4 → a + n ≤ 14 → v < 256 ^ n →
    ∃ m' : Memory, memWrite m a n v = some m' ∧ Memory.wf m' = true ∧ memRead m' a n = some v ∧
      (∀ k, k < n → (Memory.read m' (a + k)).toNat = v / 256 ^ (n - 1 - k) % 256) ∧
      ∀ c, c < a ∨ a + n ≤ c → Memory.read m' c = Memory.read m c

/-! ## Unit ENC -/

/-- 40_frame_codec.md R131: an idle ENC takes the command, TX_BUF becomes Encode of the fields and TX_IDX 0; RX, its
HDR_BUF and the streams are unchanged. -/
def Obligations.EncCmdLoadsTheHeader : Prop :=
  ∀ (f : FieldTuple) (s : State), s.enc.txIdx = 14 →
    ∃ t : State, exec (.encCmd f) s = .next t ∧ t.rx = s.rx ∧ t.env = s.env ∧ t.enc.txIdx = 0 ∧
      encodeHeader (widen f) = .header (Memory.bytes t.enc.txBuf) ∧ Memory.wf t.enc.txBuf = true ∧
      ∀ a, 14 ≤ a → Memory.read t.enc.txBuf a = 0

/-- 40_frame_codec.md R132, 10_state.md R45: each byte step pushes what the pins tx_data and tx_last show, TX_BUF[TX_IDX]
and whether TX_IDX is 13, while tx_valid is high, and steps TX_IDX; nothing else changes. That the pushed bytes are kept in
a list is log entry 12. -/
def Obligations.EncByteSendsTheNextByte : Prop :=
  ∀ s : State, s.enc.txIdx.val < 14 →
    ∃ t : State, exec .encByte s = .next t ∧ t.enc.txIdx.val = s.enc.txIdx.val + 1 ∧ t.enc.txBuf = s.enc.txBuf ∧
      t.rx = s.rx ∧
      t.env = { s.env with txOut := s.env.txOut ++ [⟨txData s, txLast s⟩] } ∧
      txData s = Memory.read s.enc.txBuf s.enc.txIdx.val ∧ txLast s = decide (s.enc.txIdx.val = 13) ∧
      txValid s = true

/-- 40_frame_codec.md R133: a busy ENC takes no command and keeps TX_BUF; with tx_ready low it takes no step; and no
operation of one unit changes the other. -/
def Obligations.BusyEncHoldsOffCommands : Prop :=
  (∀ (f : FieldTuple) (s : State), s.enc.txIdx.val < 14 → exec (.encCmd f) s = .next s ∧ encReady s = false) ∧
    (∀ s : State, s.enc.txIdx.val < 14 → s.env.pins.txReady = false → encOperation s = none) ∧
    (∀ (i : Instr) (s t : State), exec i s = .next t → i ≠ .reset → s.enc.txIdx.val < 14 → t.enc.txBuf = s.enc.txBuf) ∧
    ∀ (i : Instr) (s t : State), exec i s = .next t → i ≠ .reset →
      ((∃ f, i = .encCmd f) ∨ i = .encByte → t.rx = s.rx) ∧
      ((∀ f, i ≠ .encCmd f) → i ≠ .encByte → t.enc = s.enc ∧ t.env.txOut = s.env.txOut)

/-- 40_frame_codec.md R131 to R133: a command and fourteen byte steps put exactly Encode of the fields on the encoder
output, in offset order, with tx_last on the fourteenth, and leave ENC idle. -/
def Obligations.EncEmitsTheWholeHeader : Prop :=
  ∀ (f : FieldTuple) (s : State), s.enc.txIdx = 14 →
    ∃ t : State, execAll (.encCmd f :: List.replicate 14 .encByte) s = .next t ∧ t.rx = s.rx ∧ t.enc.txIdx = 14 ∧
      ∃ bs : List Byte, encodeHeader (widen f) = .header bs ∧
        t.env.txOut.map Beat.data = s.env.txOut.map Beat.data ++ bs ∧
        t.env.txOut.map Beat.last = s.env.txOut.map Beat.last ++ (List.replicate 13 false ++ [true])

/-! ## The sequencer -/

/-- 42_session_sequencer.md R166, 70_reset_and_hazards.md R265: OPEN in TERMINATED leaves every register of RX at one
fixed value, whatever came before; in any other state Open waits. RX_POS restarts (log entry 12). -/
def Obligations.OpenStartsFromTheSameState : Prop :=
  ∀ s : State,
    (s.rx.state = .terminated →
      exec .openSession s =
        .next { s with
          rx := { state := .awaitingHeader, hdrBuf := [], hdrCnt := 0, hdrValid := false, short := false, payRem := 0
                  payCnt := 0, respCode := .none, respIdx := 0, termCause := .none, x := ⟨0, 0, 0, 0, 0, 0, 0, 0⟩ }
          env := { s.env with rxPos := 0 } }) ∧
    (s.rx.state ≠ .terminated → exec .openSession s = .next s ∧ openReady s = false)

/-- 42_session_sequencer.md R167: a header byte goes to HDR_BUF[HDR_CNT] and nowhere else, HDR_CNT grows by one, and the
fourteenth leads to VALIDATING; no other register changes. The byte is the stream's next one, which the stream loses
(00_scope.md R12, 20_memory.md R70). That the stream is a list in the state is log entry 1, and that RX_POS steps is log
entry 12. -/
def Obligations.RecvHeaderCollectsAByte : Prop :=
  ∀ (b : Byte) (rest : List Byte) (s : State), s.rx.state = .awaitingHeader → s.rx.hdrCnt.val ≤ 13 →
    Memory.wf s.rx.hdrBuf = true → s.env.stream.bytes = b :: rest →
    ∃ t : State, exec (.recvHeader (.byte b)) s = .next t ∧
      (∀ a, Memory.read t.rx.hdrBuf a = if a = s.rx.hdrCnt.val then b else Memory.read s.rx.hdrBuf a) ∧
      Memory.wf t.rx.hdrBuf = true ∧
      t.rx.hdrCnt.val = s.rx.hdrCnt.val + 1 ∧
      t.rx.state = (if s.rx.hdrCnt.val = 13 then .validating else .awaitingHeader) ∧
      t = { rx := { s.rx with hdrBuf := t.rx.hdrBuf, hdrCnt := t.rx.hdrCnt, state := t.rx.state }
            enc := s.enc
            env := { s.env with
              stream := { s.env.stream with bytes := rest }, rxPos := s.env.rxPos + 1 } }

/-- 42_session_sequencer.md R168: InEos (00_scope.md R12, 10_state.md R50 item 4: end-of-data is signalled and no
byte is offered) with no header byte collected ends the session with PEER_CLOSED; nothing is sent and nothing else changes. -/
def Obligations.PeerCloseAtAFrameBoundary : Prop :=
  ∀ s : State, s.rx.state = .awaitingHeader → s.rx.hdrCnt.val = 0 →
    inValid s = false → inEos s = true →
    exec (.recvHeader .eos) s = .next { s with rx := { s.rx with termCause := .peerClosed, state := .terminated } }

/-- 42_session_sequencer.md R169 and R172: end-of-data after 1 to 13 header bytes raises MalformedHeaderError and a wrong
checksum ChecksumError; the step writes RESP_CODE, RESP_IDX and STATE and nothing else, so the bytes collected, the
field registers, HDR_VALID and the stream are as before. -/
def Obligations.FramingErrorsEnterTheErrorPath : Prop :=
  (∀ s : State, s.rx.state = .awaitingHeader → 1 ≤ s.rx.hdrCnt.val → s.rx.hdrCnt.val ≤ 13 →
      inValid s = false → inEos s = true →
      exec (.recvHeader .eos) s =
        .next { s with rx := { s.rx with respCode := .errMalformed, respIdx := 0, state := .responding } }) ∧
    ∀ s : State, s.rx.state = .validating →
      (((Memory.bytes s.rx.hdrBuf).take 13).map BitVec.toNat).sum % 256 ≠ (Memory.read s.rx.hdrBuf 13).toNat →
      exec .validate s =
        .next { s with rx := { s.rx with respCode := .errChecksum, respIdx := 0, state := .responding } }

/-- 60_exceptions.md R235: the rows SHORTHDR, BADSUM and ERROR_PATH are the entry of the error path: where RX holds such
a header, and for a short one the stream signals end-of-data, they write RESP_CODE, RESP_IDX and STATE and nothing else.
That these rows run there is log entry 5. -/
def Obligations.ErrorRowsAreTheErrorPathEntry : Prop :=
  (∀ s : State, s.rx.state = .awaitingHeader → 1 ≤ s.rx.hdrCnt.val → s.rx.hdrCnt.val ≤ 13 →
      inValid s = false → inEos s = true →
      let t : State := { s with rx := { s.rx with respCode := .errMalformed, respIdx := 0, state := .responding } }
      exec (.errorPath .malformedHeader) s = .next t ∧
        exec (.shorthdr ((Memory.bytes s.rx.hdrBuf).take s.rx.hdrCnt.val)) s = .next t) ∧
    ∀ s : State, s.rx.state = .validating →
      (((Memory.bytes s.rx.hdrBuf).take 13).map BitVec.toNat).sum % 256 ≠ (Memory.read s.rx.hdrBuf 13).toNat →
      let t : State := { s with rx := { s.rx with respCode := .errChecksum, respIdx := 0, state := .responding } }
      exec (.errorPath .checksumError) s = .next t ∧
        exec (.badsum (headerOfBytes (Memory.bytes s.rx.hdrBuf))) s = .next t

/-- 42_session_sequencer.md R171, 20_memory.md R69: on a right checksum VALIDATE loads all eight field registers from
HDR_BUF, sets HDR_VALID, loads PAY_REM and clears PAY_CNT in one step; nothing else changes. In VALIDATING, HDR_CNT is
14 (in a state that meets the invariant). -/
def Obligations.ValidateLoadsTheFields : Prop :=
  (∀ s : State, s.Inv → s.rx.state = .validating → s.rx.hdrCnt = 14) ∧
  ∀ s : State, s.rx.state = .validating →
    (((Memory.bytes s.rx.hdrBuf).take 13).map BitVec.toNat).sum % 256 = (Memory.read s.rx.hdrBuf 13).toNat →
    ∃ h : Header,
      exec .validate s =
        .next { s with rx := { s.rx with
          x := h, hdrValid := true, payRem := h.payloadSize, payCnt := 0, state := .readingPayload } } ∧
      h.sourcePort.toNat = (Memory.read s.rx.hdrBuf 0).toNat * 256 + (Memory.read s.rx.hdrBuf 1).toNat ∧
      h.destPort.toNat = (Memory.read s.rx.hdrBuf 2).toNat * 256 + (Memory.read s.rx.hdrBuf 3).toNat ∧
      h.sequenceNumber.toNat = (Memory.read s.rx.hdrBuf 4).toNat * 2 ^ 24 + (Memory.read s.rx.hdrBuf 5).toNat * 2 ^ 16 +
        (Memory.read s.rx.hdrBuf 6).toNat * 2 ^ 8 + (Memory.read s.rx.hdrBuf 7).toNat ∧
      h.ackFlag = Memory.read s.rx.hdrBuf 8 ∧ h.synFlag = Memory.read s.rx.hdrBuf 9 ∧
      h.finFlag = Memory.read s.rx.hdrBuf 10 ∧
      h.payloadSize.toNat = (Memory.read s.rx.hdrBuf 11).toNat * 256 + (Memory.read s.rx.hdrBuf 12).toNat ∧
      h.checksum = Memory.read s.rx.hdrBuf 13

/-- 42_session_sequencer.md R173: a payload byte goes to the payload output, PAY_REM falls and PAY_CNT grows by one, and
STATE stays even when PAY_REM becomes 0; no other register changes. At the pins the transfer needs pay_ready (10_state.md
R46, the spec's decision). The byte is the stream's next one, which the stream loses (00_scope.md R12, 20_memory.md R70).
That the stream is a list in the state is log entry 1, and that the output list and RX_POS are kept is log entry 12. -/
def Obligations.ReadPayloadPassesAByte : Prop :=
  ∀ (b : Byte) (rest : List Byte) (s : State), s.rx.state = .readingPayload → s.rx.payRem ≠ 0 →
    s.env.stream.bytes = b :: rest →
    exec (.readPayload (.byte b)) s =
        .next { s with
          rx := { s.rx with payRem := s.rx.payRem - 1, payCnt := s.rx.payCnt + 1 }
          env := { s.env with
            stream := { s.env.stream with bytes := rest }, rxPos := s.env.rxPos + 1
            payOut := s.env.payOut ++ [b] } } ∧
      (s.rx.payRem - 1).toNat + 1 = s.rx.payRem.toNat ∧ inReady s = s.env.pins.payReady

/-- 42_session_sequencer.md R174: with no byte missing READ_PAYLOAD completes; STATE becomes DISPATCHING, SHORT stays, and
nothing else changes, whatever the stream holds. -/
def Obligations.ReadPayloadCompletes : Prop :=
  ∀ s : State, s.rx.state = .readingPayload → s.rx.payRem = 0 →
    exec (.readPayload .done) s = .next { s with rx := { s.rx with state := .dispatching } }

/-- 42_session_sequencer.md R175: at end-of-data with bytes missing READ_PAYLOAD sets SHORT and enters DISPATCHING; PAY_REM
and PAY_CNT keep their values and nothing else changes. -/
def Obligations.ReadPayloadMeetsEndOfData : Prop :=
  ∀ s : State, s.rx.state = .readingPayload → s.rx.payRem ≠ 0 → inValid s = false → inEos s = true →
    exec (.readPayload .eos) s = .next { s with rx := { s.rx with short := true, state := .dispatching } }

/-- 41_payload_reader.md R150, R152 to R155: READ_EXACT of the n bytes still missing takes what the stream has of them,
never more, and ends with all n, or short at end-of-data with SHORT set, or goes on blocking in READING_PAYLOAD. The
model's choices: it is run as one fused READ_PAYLOAD that looks at the bound stream and at no pin (log entry 7), its
result goes to the field `result` (log entry 6), and the output list and RX_POS are kept (log entry 12). -/
def Obligations.ReadExactTakesWhatThereIs : Prop :=
  ∀ (n : Half) (s : State), s.rx.state = .readingPayload → s.rx.payRem = n →
    let got := s.env.stream.bytes.take n.toNat
    let rx : RxRegs := { s.rx with
      payRem := s.rx.payRem - BitVec.ofNat 16 got.length, payCnt := s.rx.payCnt + BitVec.ofNat 16 got.length }
    let env : Env := { s.env with
      stream := { s.env.stream with bytes := s.env.stream.bytes.drop n.toNat }, rxPos := s.env.rxPos + got.length
      payOut := s.env.payOut ++ got }
    (n.toNat ≤ s.env.stream.bytes.length →
      exec (.readExact n) s =
        .next { s with rx := { rx with payRem := 0, state := .dispatching }, env := { env with result := .read got } }) ∧
    (s.env.stream.bytes.length < n.toNat → s.env.stream.ends = true →
      exec (.readExact n) s =
        .next { s with rx := { rx with short := true, state := .dispatching }, env := { env with result := .read got } }) ∧
    (s.env.stream.bytes.length < n.toNat → s.env.stream.ends = false →
      exec (.readExact n) s = .next { s with rx := rx, env := env })

/-- 41_payload_reader.md R150, 42_session_sequencer.md R173 to R175: READ_EXACT, the model's fused step (log entry 7),
leaves, but for the model's result field (log entry 6), the state that READ_PAYLOAD's byte steps and its ending step
leave. -/
def Obligations.ReadExactIsReadPayloadFused : Prop :=
  ∀ (n : Half) (s : State), s.rx.state = .readingPayload → s.rx.payRem = n →
    ∃ t u : State, exec (.readExact n) s = .next t ∧
      execAll ((s.env.stream.bytes.take n.toNat).map (fun b => .readPayload (.byte b)) ++
        (if n.toNat ≤ s.env.stream.bytes.length then [.readPayload .done]
          else if s.env.stream.ends = true then [.readPayload .eos] else [])) s = .next u ∧
      t = { u with env := { u.env with result := t.env.result } }

/-- 41_payload_reader.md R151, R152, R154: ReadExact gives the first min(n, |d|) bytes of what the stream delivers and
leaves it just after them, whatever chunks it is delivered in; with n = 0 the stream is untouched. -/
def Obligations.ReadExactIgnoresGrouping : Prop :=
  ∀ (chunks : List (List Byte)) (n : Nat), (∀ c ∈ chunks, c ≠ []) →
    (readExactChunks chunks n).1 = chunks.flatten.take n ∧
      (readExactChunks chunks n).2.flatten = chunks.flatten.drop n ∧
      (readExactChunks chunks 0).2 = chunks

/-- 42_session_sequencer.md R177 with 43_response_generator.md R201 and 10_state.md R30: DISPATCH chooses SYN, else ACK, else
FIN, else DATA, and enters RESPONDING; nothing else changes. That a flag is set when its byte equals 1 is the spec's
decision D11 (log entry 16). -/
def Obligations.DispatchChoosesByPriority : Prop :=
  ∀ s : State, s.rx.state = .dispatching →
    exec .dispatch s =
      .next { s with rx := { s.rx with
        respCode := if s.rx.x.synFlag = 1 then .syn else if s.rx.x.ackFlag = 1 then .ack
          else if s.rx.x.finFlag = 1 then .fin else .data
        respIdx := 0, state := .responding } }

/-- 43_response_generator.md R202 to R205: a class row, where RX is dispatching its header, starts the response of its
class; nothing else changes. That a row runs in DISPATCHING is log entry 5, and that a flag is set when its byte equals 1
is the spec's decision D11 (log entry 16). -/
def Obligations.ClassRowsStartTheirResponse : Prop :=
  ∀ (h : Header) (s : State), s.rx.state = .dispatching → s.rx.x = h →
    let answer (c : RespCode) : State := { s with rx := { s.rx with respCode := c, respIdx := 0, state := .responding } }
    (h.synFlag = 1 → exec (.syn h) s = .next (answer .syn)) ∧
    (h.synFlag ≠ 1 → h.ackFlag = 1 → exec (.ack h) s = .next (answer .ack)) ∧
    (h.synFlag ≠ 1 → h.ackFlag ≠ 1 → h.finFlag = 1 → exec (.fin h) s = .next (answer .fin)) ∧
    (h.synFlag ≠ 1 → h.ackFlag ≠ 1 → h.finFlag ≠ 1 → exec (.data h) s = .next (answer .data))

/-- 30_encoding.md R100, R101 with 42_session_sequencer.md R169, R172, R177: in a state that meets the invariant, the
operation that STATE selects does what the row decoded from HDR_BUF does. -/
def Obligations.SelectedOperationIsTheHeadersRow : Prop :=
  ∀ (s : State) (i : Instr), s.Inv →
    (s.rx.state = .dispatching → decode ⟨.header, Memory.bytes s.rx.hdrBuf⟩ = .instr i →
      exec .dispatch s = exec i s) ∧
    (s.rx.state = .validating → (∃ h, i = .badsum h) → decode ⟨.header, Memory.bytes s.rx.hdrBuf⟩ = .instr i →
      exec .validate s = exec i s) ∧
    (s.rx.state = .awaitingHeader →
      decode ⟨.header, (Memory.bytes s.rx.hdrBuf).take s.rx.hdrCnt.val⟩ = .instr i →
      exec (.recvHeader .eos) s = exec i s)

/-- 42_session_sequencer.md R178, 10_state.md R48: RESPOND pushes what the pins resp_data and resp_last show,
RespBytes[RESP_IDX] and whether it is the last byte, while resp_valid is high, and steps RESP_IDX, which cannot wrap;
nothing else changes. That the pushed bytes are kept in a list is log entry 12. -/
def Obligations.RespondSendsTheNextByte : Prop :=
  ∀ s : State, s.rx.state = .responding →
    s.rx.respIdx.toNat < (respBytes s.rx.respCode s.rx.x.payloadSize).length →
    ∃ t : State, exec .respond s = .next t ∧ t.rx.respIdx.toNat = s.rx.respIdx.toNat + 1 ∧
      t.rx = { s.rx with respIdx := t.rx.respIdx } ∧ t.enc = s.enc ∧
      t.env = { s.env with respOut := s.env.respOut ++ [⟨respData s, respLast s⟩] } ∧
      respData s = (respBytes s.rx.respCode s.rx.x.payloadSize).getD s.rx.respIdx.toNat 0 ∧
      respLast s = decide (s.rx.respIdx.toNat + 1 = (respBytes s.rx.respCode s.rx.x.payloadSize).length) ∧
      respValid s = true

/-- 42_session_sequencer.md R180: when an error response is sent NEXT ends the session with its cause, whatever the flags
are; nothing else changes. -/
def Obligations.NextAfterAnErrorResponse : Prop :=
  ∀ s : State, s.rx.state = .responding →
    s.rx.respIdx.toNat = (respBytes s.rx.respCode s.rx.x.payloadSize).length →
    (s.rx.respCode = .errMalformed →
      exec .next s = .next { s with rx := { s.rx with termCause := .errMalformed, state := .terminated } }) ∧
    (s.rx.respCode = .errChecksum →
      exec .next s = .next { s with rx := { s.rx with termCause := .errChecksum, state := .terminated } })

/-- 42_session_sequencer.md R181, R182: when the response of a valid frame is sent NEXT ends the session with FIN if the fin
byte is 1, else clears the frame and awaits the next header. That fin bytes 2 to 255 do not end it is the spec's decision
D11 (log entry 16). -/
def Obligations.NextEndsOrContinues : Prop :=
  ∀ s : State, s.rx.state = .responding → s.rx.respCode ≠ .none → s.rx.respCode ≠ .errMalformed →
    s.rx.respCode ≠ .errChecksum → s.rx.respIdx.toNat = (respBytes s.rx.respCode s.rx.x.payloadSize).length →
    (s.rx.x.finFlag = 1 →
      exec .next s = .next { s with rx := { s.rx with termCause := .fin, state := .terminated } }) ∧
    (s.rx.x.finFlag ≠ 1 →
      exec .next s =
        .next { s with rx := { state := .awaitingHeader, hdrBuf := [], hdrCnt := 0, hdrValid := false, short := false
                               payRem := 0, payCnt := 0, respCode := .none, respIdx := 0
                               termCause := s.rx.termCause, x := ⟨0, 0, 0, 0, 0, 0, 0, 0⟩ } })

/-! ## ABORT, RESET, TERMINATED -/

/-- 60_exceptions.md R229: at an edge with abort high and a session open, ABORT comes before any other RX step, writes
TERM_CAUSE and STATE and nothing else, and sends nothing; in TERMINATED it does nothing. -/
def Obligations.AbortEndsTheSessionSilently : Prop :=
  ∀ s : State,
    (s.rx.state ≠ .terminated →
      exec .abort s = .next { s with rx := { s.rx with termCause := .fault, state := .terminated } } ∧
      (s.env.pins.abort = true → rxOperation s = some .abort)) ∧
    (s.rx.state = .terminated → exec .abort s = .next s ∧ rxOperation s ≠ some .abort)

/-- 70_reset_and_hazards.md R260, R262: at an edge with rst high, in any state and whatever the other pins, every
register of both units takes its reset value and no unit takes any other step; what is pushed stays pushed and the
stream keeps its bytes. -/
def Obligations.ResetRestoresEveryRegister : Prop :=
  ∀ s : State,
    let t : State :=
      { rx := { state := .terminated, hdrBuf := [], hdrCnt := 0, hdrValid := false, short := false, payRem := 0
                payCnt := 0, respCode := .none, respIdx := 0, termCause := .none, x := ⟨0, 0, 0, 0, 0, 0, 0, 0⟩ }
        enc := { txBuf := [], txIdx := 14 }
        env := s.env }
    exec .reset s = .next t ∧ (s.env.pins.rst = true → clockEdge s = .next t)

/-- 10_state.md R43: the reset values, and that whatever the input pins, after reset no valid output is raised, in_ready
is low, and open_ready, enc_ready and st_closed are high. -/
def Obligations.ResetOffersNothing : Prop :=
  State.reset.rx.state = .terminated ∧ State.reset.rx.termCause = .none ∧
    Memory.bytes State.reset.rx.hdrBuf = List.replicate 14 0 ∧ State.reset.rx.hdrCnt = 0 ∧
    State.reset.rx.hdrValid = false ∧ State.reset.rx.short = false ∧ State.reset.rx.payRem = 0 ∧
    State.reset.rx.payCnt = 0 ∧ State.reset.rx.respCode = .none ∧ State.reset.rx.respIdx = 0 ∧
    State.reset.rx.x = ⟨0, 0, 0, 0, 0, 0, 0, 0⟩ ∧ Memory.bytes State.reset.enc.txBuf = List.replicate 14 0 ∧
    State.reset.enc.txIdx = 14 ∧
    ∀ e : Env,
      let s : State := { State.reset with env := e }
      payValid s = false ∧ respValid s = false ∧ txValid s = false ∧ inReady s = false ∧ openReady s = true ∧
        encReady s = true ∧ (status s).stClosed = true

/-- 42_session_sequencer.md R183: in TERMINATED no operation but OPEN and RESET changes a register of RX, reads the
input or sends anything, and in_ready, pay_valid and resp_valid are low. -/
def Obligations.TerminatedRxIsStill : Prop :=
  ∀ s : State, s.rx.state = .terminated →
    inReady s = false ∧ payValid s = false ∧ respValid s = false ∧ (status s).stClosed = true ∧
      ∀ (i : Instr) (t : State), exec i s = .next t → i ≠ .openSession → i ≠ .reset →
        t.rx = s.rx ∧ t.env.stream = s.env.stream ∧ t.env.payOut = s.env.payOut ∧ t.env.respOut = s.env.respOut

/-! ## Whole-machine rules -/

/-- 42_session_sequencer.md R184: every operation that answers a next state either leaves STATE or follows a row of the
transition table, and every row is followed where its conditions hold. -/
def Obligations.TransitionTableIsComplete : Prop :=
  (∀ (i : Instr) (s t : State), exec i s = .next t → t.rx.state = s.rx.state ∨ Arc i s t.rx.state) ∧
    ∀ (i : Instr) (s : State) (v : RxState), Arc i s v → ∃ t, exec i s = .next t ∧ t.rx.state = v

/-- 42_session_sequencer.md R170: while RX awaits a header and the stream neither delivers a byte nor ends, an edge with
abort and rst low and ENC not asked changes nothing; and only the end of the header, the end of the stream, ABORT and
RESET leave AWAITING_HEADER. -/
def Obligations.SilentPeerBlocksForEver : Prop :=
  (∀ s : State, s.rx.state = .awaitingHeader → s.env.moves = [] → inValid s = false → inEos s = false →
      s.env.pins.abort = false → s.env.pins.rst = false → encOperation s = none → step s = .next s) ∧
    ∀ (i : Instr) (s t : State), s.rx.state = .awaitingHeader → exec i s = .next t → t.rx.state ≠ .awaitingHeader →
      (∃ b, i = .recvHeader (.byte b)) ∧ s.rx.hdrCnt.val = 13 ∨ i = .recvHeader .eos ∨ (∃ bs, i = .shorthdr bs) ∨
        i = .errorPath .malformedHeader ∨ i = .abort ∨ i = .reset

/-- 10_state.md R21: the field registers are written whole by a successful VALIDATE, with HDR_VALID set in the same step,
and otherwise only cleared, by OPEN, by NEXT's continue arm and by RESET; in a state that meets the invariant they hold 0
while HDR_VALID is 0. -/
def Obligations.FieldRegistersChangeTogether : Prop :=
  (∀ s : State, s.Inv → s.rx.hdrValid = false → s.rx.x = ⟨0, 0, 0, 0, 0, 0, 0, 0⟩) ∧
  ∀ (i : Instr) (s t : State), exec i s = .next t → t.rx.x ≠ s.rx.x →
    (i = .validate ∧ s.rx.state = .validating ∧ decodeHeader (Memory.bytes s.rx.hdrBuf) = .fields t.rx.x ∧
        t.rx.hdrValid = true) ∨
      ((i = .openSession ∨ i = .next ∨ i = .reset) ∧ t.rx.x = ⟨0, 0, 0, 0, 0, 0, 0, 0⟩ ∧ t.rx.hdrValid = false)

/-- 20_memory.md R70, R74 to R76, R81, 40_frame_codec.md R132: an operation takes bytes from the stream, in order, only in
AWAITING_HEADER or READING_PAYLOAD; it passes payload on only in READING_PAYLOAD; it sends at most one response byte, and
only in RESPONDING; it sends at most one byte on the encoder output, and only while TX_IDX is below 14 (R132); it writes
HDR_BUF, but for clearing it, only in AWAITING_HEADER; and what has been pushed on any output is never taken back (R70).
The lists of pushed bytes are log entry 12. -/
def Obligations.StreamsMoveInTurn : Prop :=
  ∀ (i : Instr) (s t : State), exec i s = .next t →
    (∃ k, t.env.stream.bytes = s.env.stream.bytes.drop k ∧ t.env.stream.ends = s.env.stream.ends ∧
      (0 < k → s.rx.state = .awaitingHeader ∨ s.rx.state = .readingPayload)) ∧
    (∃ p, t.env.payOut = s.env.payOut ++ p ∧ (p ≠ [] → s.rx.state = .readingPayload)) ∧
    (∃ r, t.env.respOut = s.env.respOut ++ r ∧ r.length ≤ 1 ∧ (r ≠ [] → s.rx.state = .responding)) ∧
    (∃ x, t.env.txOut = s.env.txOut ++ x ∧ x.length ≤ 1 ∧ (x ≠ [] → s.enc.txIdx.val < 14)) ∧
    (t.rx.hdrBuf = s.rx.hdrBuf ∨ t.rx.hdrBuf = [] ∨ s.rx.state = .awaitingHeader)

/-- 20_memory.md R77, 60_exceptions.md R241: an operation of RX and one of ENC give the same result in either order. -/
def Obligations.UnitsCommute : Prop :=
  ∀ (i j : Instr) (s : State), i ≠ .reset → (∀ f, i ≠ .encCmd f) → i ≠ .encByte →
    ((∃ f, j = .encCmd f) ∨ j = .encByte) →
    thenRun (exec i s) (exec j) = thenRun (exec j s) (exec i)

/-- 60_exceptions.md R224: end-of-data with payload bytes missing sets SHORT and leads to DISPATCHING, and a short payload
changes nothing else: two states that differ only in SHORT, PAY_REM and PAY_CNT are dispatched, answered and continued or
ended alike. -/
def Obligations.ShortPayloadChangesNothingElse : Prop :=
  (∀ s : State, s.rx.state = .readingPayload → s.rx.payRem ≠ 0 → inValid s = false → inEos s = true →
      exec (.readPayload .eos) s = .next { s with rx := { s.rx with short := true, state := .dispatching } }) ∧
    ∀ (s : State) (sh : Bool) (rem cnt : Half) (i : Instr), i = .dispatch ∨ i = .respond ∨ i = .next →
      let u : State := { s with rx := { s.rx with short := sh, payRem := rem, payCnt := cnt } }
      ∀ t : State, exec i s = .next t →
        ∃ t' : State, exec i u = .next t' ∧ t'.env = t.env ∧ t'.enc = t.enc ∧
          { t'.rx with short := t.rx.short, payRem := t.rx.payRem, payCnt := t.rx.payCnt } = t.rx

/-! ## Responses -/

/-- 43_response_generator.md R210, R207: the lengths of the six responses, none empty, none over 255 bytes, whatever
MSG_CHECKSUM is. -/
def Obligations.ResponseLengths : Prop :=
  ∀ n : Half,
    (respBytes .syn n).length = 37 ∧ (respBytes .ack n).length = 37 ∧ (respBytes .fin n).length = 35 ∧
      35 ≤ (respBytes .data n).length ∧ (respBytes .data n).length ≤ 39 ∧ (respBytes .errMalformed n).length = 33 ∧
      7 ≤ (respBytes .errChecksum n).length ∧ (respBytes .errChecksum n).length ≤ 255

/-- 43_response_generator.md R208: Dec's own equations on 16-bit values, and the number of its digits. -/
def Obligations.DecimalText : Prop :=
  ∀ n : Nat, n < 65536 →
    (n < 10 → dec n = [BitVec.ofNat 8 (0x30 + n)]) ∧
    (10 ≤ n → dec n = dec (n / 10) ++ [BitVec.ofNat 8 (0x30 + n % 10)]) ∧
    (dec n).length =
      (if n < 10 then 1 else if n < 100 then 2 else if n < 1000 then 3 else if n < 10000 then 4 else 5)

/-- 43_response_generator.md R201, 10_state.md R30: the truth table of Classify over set (equal to 1) and not set (any
other byte), as the spec's decision D11 reads the source (log entry 16). -/
def Obligations.ClassifyTruthTable : Prop :=
  ∀ ack syn fin : Byte,
    (syn = 1 → classify ack syn fin = .syn) ∧ (ack = 1 → syn ≠ 1 → classify ack syn fin = .ack) ∧
      (ack ≠ 1 → syn ≠ 1 → fin = 1 → classify ack syn fin = .fin) ∧
      (ack ≠ 1 → syn ≠ 1 → fin ≠ 1 → classify ack syn fin = .data)

/-! ## Steps and clock edges -/

/-- 10_state.md R50, 00_scope.md R13: what a step does with each move of the environment. An event whose word decodes to
i runs exec i; an edge samples the pins, runs RX's operation and then ENC's; with no move left the pins keep their
levels (log entries 1 to 3); and a table word placed for fetching is run by the very next step. That an event runs at any
held pin levels, rst and abort high included, is log entry 20. -/
def Obligations.StepRunsTheDecodedInstruction : Prop :=
  (∀ (s : State) (w : OpWord) (i : Instr) (rest : List Move), s.env.moves = .event w :: rest → decode w = .instr i →
      step s = exec i { s with env := { s.env with moves := rest } }) ∧
    (∀ (s : State) (p : Pins) (rest : List Move), s.env.moves = .edge p :: rest →
      step s = clockEdge { s with env := { s.env with pins := p, moves := rest } }) ∧
    (∀ (s : State) (d : Stream) (rest : List Move), s.env.moves = .bind d :: rest →
      step s = .next { s with env := { s.env with stream := d, moves := rest } }) ∧
    (∀ s : State, s.env.moves = [] → step s = clockEdge s) ∧
    (∀ s : State, s.env.pins.rst = false →
      clockEdge s = thenRun ((rxOperation s).elim (.next s) (fun i => exec i s))
        (fun t => (encOperation s).elim (.next t) (fun j => exec j t))) ∧
    ∀ (s : State) (nbits w : Nat) (i : Instr), decodeTableWord nbits w = some i →
      step (s.withFetchWord nbits w) = exec i (prepare i s)

/-- 10_state.md R50, 60_exceptions.md R231 and R233: RX takes the first of Abort, Open, InByte, InEos, RespAccept and the
internal step that applies, and only that one; a byte comes before end-of-data; ENC takes EncCmd or TxAccept. -/
def Obligations.EdgeTakesTheFirstThatApplies : Prop :=
  ∀ s : State,
    (s.env.pins.abort = true → s.rx.state ≠ .terminated → rxOperation s = some .abort) ∧
    (s.env.pins.openValid = true → s.rx.state = .terminated → rxOperation s = some .openSession) ∧
    (s.env.pins.abort = false → inValid s = true →
      (s.rx.state = .awaitingHeader → rxOperation s = some (.recvHeader (.byte (inData s)))) ∧
      (s.rx.state = .readingPayload → s.rx.payRem ≠ 0 → s.env.pins.payReady = true →
        rxOperation s = some (.readPayload (.byte (inData s)))) ∧
      (s.rx.state = .readingPayload → s.rx.payRem ≠ 0 → s.env.pins.payReady = false → rxOperation s = none)) ∧
    (s.env.pins.abort = false → inValid s = false →
      (s.rx.state = .awaitingHeader →
        rxOperation s = if inEos s = true then some (.recvHeader .eos) else none) ∧
      (s.rx.state = .readingPayload → s.rx.payRem ≠ 0 →
        rxOperation s = if inEos s = true then some (.readPayload .eos) else none)) ∧
    (s.env.pins.abort = false →
      (s.rx.state = .validating → rxOperation s = some .validate) ∧
      (s.rx.state = .readingPayload → s.rx.payRem = 0 → rxOperation s = some (.readPayload .done)) ∧
      (s.rx.state = .dispatching → rxOperation s = some .dispatch) ∧
      (s.rx.state = .responding → s.rx.respIdx.toNat < currentRespLen s →
        rxOperation s = if s.env.pins.respReady = true then some .respond else none) ∧
      (s.rx.state = .responding → s.rx.respIdx.toNat = currentRespLen s → rxOperation s = some .next)) ∧
    (s.rx.state = .terminated → s.env.pins.openValid = false → rxOperation s = none) ∧
    (s.enc.txIdx = 14 →
      encOperation s = if s.env.pins.encValid = true then some (.encCmd s.env.pins.enc) else none) ∧
    (s.enc.txIdx.val < 14 → encOperation s = if s.env.pins.txReady = true then some .encByte else none)

/-- 60_exceptions.md R230: end-of-data is looked at only when RX wants a byte: elsewhere RX's operation is the same
whether in_eos is high or the stream has ended. -/
def Obligations.EndOfDataIsIgnoredUnlessWanted : Prop :=
  ∀ (s : State) (e f : Bool), wantsByte s = false →
    rxOperation { s with env := { s.env with
      pins := { s.env.pins with inEos := e }, stream := { s.env.stream with ends := f } } } = rxOperation s

/-- 70_reset_and_hazards.md R285: the handshake outputs do not look at abort or rst, and at an edge with abort high and a
session open, or with rst high, RX takes no byte from the stream and pushes none. -/
def Obligations.AbortAndResetEdgesMoveNoByte : Prop :=
  (∀ (s : State) (a r : Bool),
      let u : State := { s with env := { s.env with pins := { s.env.pins with abort := a, rst := r } } }
      inReady u = inReady s ∧ payValid u = payValid s ∧ payData u = payData s ∧ respValid u = respValid s ∧
        respData u = respData s ∧ respLast u = respLast s) ∧
    ∀ s t : State, s.env.pins.rst = true ∨ (s.env.pins.abort = true ∧ s.rx.state ≠ .terminated) →
      clockEdge s = .next t →
      t.env.stream = s.env.stream ∧ t.env.payOut = s.env.payOut ∧ t.env.respOut = s.env.respOut ∧
        t.env.rxPos = s.env.rxPos ∧ (s.env.pins.rst = true → t.env.txOut = s.env.txOut)

/-! ## Invariants -/

/-- The invariant holds at reset (10_state.md R43). -/
def Obligations.InvariantHoldsAtReset : Prop :=
  State.reset.Inv

/-- 10_state.md R21, R25, R27, R28, 43_response_generator.md R210, 93_implementation_defined.md U12: every step from a
state that meets the invariant, whatever the environment's move, gives a state that meets it. -/
def Obligations.StepKeepsTheInvariant : Prop :=
  ∀ s t : State, s.Inv → step s = .next t → t.Inv

/-- 60_exceptions.md R250, 93_implementation_defined.md U12: in a state that meets the invariant every well-formed
instruction answers a next state, and so does every clock edge: nothing is undefined and nothing stops FHC. That an
operation which is not enabled answers a next state, the unchanged one, is the model's reading of a stall, log entry 8. -/
def Obligations.NothingStopsTheMachine : Prop :=
  (∀ (s : State) (i : Instr), s.Inv → wellFormed i = true → ∃ t, exec i s = .next t) ∧
    ∀ s : State, s.Inv → ∃ t, clockEdge s = .next t

/-! ## The big step -/

/-- 42_session_sequencer.md R185, 70_reset_and_hazards.md R282: a session opened on a finite stream that then ends, with
the source and the sinks always ready and no Abort, comes to TERMINATED after finitely many steps, with exactly the
responses, the payloads, the cause and the unread bytes that Session(d) gives; ENC is not touched. The run rests on log
entry 2 (with no move left a step is one more edge at the pins as they stand), and Session(d) on log entry 19 (the bound of
its recursion, and the unread suffix). -/
def Obligations.SmallStepsGiveTheSession : Prop :=
  ∀ (s s₀ : State) (d : List Byte), exec .openSession s = .next s₀ → s.rx.state = .terminated →
    s.env.moves = [] → s.env.pins = sessionPins → s.env.stream = ⟨d, true⟩ →
    ∃ (k : Nat) (t : State), Host.Core.run Sys2Proof.core k s₀ = .next t ∧ t.rx.state = .terminated ∧
      t.rx.termCause = (session d).cause ∧
      t.env.respOut.map Beat.data = s.env.respOut.map Beat.data ++ (session d).responses.flatten ∧
      t.env.payOut = s.env.payOut ++ (session d).payloads.flatten ∧
      t.env.stream.bytes = (session d).unread ∧ t.env.rxPos + t.env.stream.bytes.length = d.length ∧ t.enc = s.enc

/-! ## Texts, codes and numbers -/

/-- 43_response_generator.md R207: the bytes of every response, from the rule's table, for every payload_size and every
MSG_CHECKSUM. -/
def Obligations.ResponseTexts : Prop :=
  ∀ n : Half,
    respBytes .syn n =
      [0x53, 0x59, 0x4E, 0x20, 0x72, 0x65, 0x63, 0x65, 0x69, 0x76, 0x65, 0x64, 0x20, 0xE2, 0x80, 0x93, 0x20,
       0x63, 0x6F, 0x6E, 0x6E, 0x65, 0x63, 0x74, 0x69, 0x6F, 0x6E, 0x20, 0x69, 0x6E, 0x69, 0x74, 0x69, 0x61,
       0x74, 0x65, 0x64] ∧
    respBytes .ack n =
      [0x41, 0x43, 0x4B, 0x20, 0x72, 0x65, 0x63, 0x65, 0x69, 0x76, 0x65, 0x64, 0x20, 0xE2, 0x80, 0x93, 0x20,
       0x6D, 0x65, 0x73, 0x73, 0x61, 0x67, 0x65, 0x20, 0x61, 0x63, 0x6B, 0x6E, 0x6F, 0x77, 0x6C, 0x65, 0x64,
       0x67, 0x65, 0x64] ∧
    respBytes .fin n =
      [0x46, 0x49, 0x4E, 0x20, 0x72, 0x65, 0x63, 0x65, 0x69, 0x76, 0x65, 0x64, 0x20, 0xE2, 0x80, 0x93, 0x20,
       0x63, 0x6F, 0x6E, 0x6E, 0x65, 0x63, 0x74, 0x69, 0x6F, 0x6E, 0x20, 0x63, 0x6C, 0x6F, 0x73, 0x69, 0x6E,
       0x67] ∧
    respBytes .data n =
      [0x44, 0x61, 0x74, 0x61, 0x20, 0x72, 0x65, 0x63, 0x65, 0x69, 0x76, 0x65, 0x64, 0x20, 0xE2, 0x80, 0x93,
       0x20, 0x70, 0x61, 0x79, 0x6C, 0x6F, 0x61, 0x64, 0x20, 0x6C, 0x65, 0x6E, 0x67, 0x74, 0x68, 0x3A, 0x20] ++
        dec n.toNat ∧
    respBytes .errMalformed n =
      [0x45, 0x72, 0x72, 0x6F, 0x72, 0x3A, 0x20] ++
        [0x49, 0x6E, 0x63, 0x6F, 0x6D, 0x70, 0x6C, 0x65, 0x74, 0x65, 0x20, 0x68, 0x65, 0x61, 0x64, 0x65, 0x72,
         0x20, 0x72, 0x65, 0x63, 0x65, 0x69, 0x76, 0x65, 0x64] ∧
    respBytes .errChecksum n =
      [0x45, 0x72, 0x72, 0x6F, 0x72, 0x3A, 0x20] ++ Config.msgChecksum ∧
    respBytes .none n = []

/-- 10_state.md R49, 20_memory.md R78, with the codes of R24, R32 and R33: each status output shows the register of its
name, and st_closed shows whether STATE is TERMINATED. -/
def Obligations.StatusOutputsShowTheRegisters : Prop :=
  ∀ s : State,
    (status s).stState.toNat =
      (match s.rx.state with
        | .terminated => 0
        | .awaitingHeader => 1
        | .validating => 2
        | .readingPayload => 3
        | .dispatching => 4
        | .responding => 5) ∧
    (status s).stRespCode.toNat =
      (match s.rx.respCode with
        | .none => 0
        | .syn => 1
        | .ack => 2
        | .fin => 3
        | .data => 4
        | .errMalformed => 5
        | .errChecksum => 6) ∧
    (status s).stTermCause.toNat =
      (match s.rx.termCause with
        | .none => 0
        | .peerClosed => 1
        | .fin => 2
        | .errMalformed => 3
        | .errChecksum => 4
        | .fault => 5) ∧
    (status s).stHdrCnt.toNat = s.rx.hdrCnt.val ∧ (status s).stTxIdx.toNat = s.enc.txIdx.val ∧
    (status s).stHdrValid = s.rx.hdrValid ∧ (status s).stShort = s.rx.short ∧ (status s).stPayRem = s.rx.payRem ∧
    (status s).stPayCnt = s.rx.payCnt ∧ (status s).stRespIdx = s.rx.respIdx ∧
    (status s).stSourcePort = s.rx.x.sourcePort ∧ (status s).stDestPort = s.rx.x.destPort ∧
    (status s).stSequenceNumber = s.rx.x.sequenceNumber ∧ (status s).stAckFlag = s.rx.x.ackFlag ∧
    (status s).stSynFlag = s.rx.x.synFlag ∧ (status s).stFinFlag = s.rx.x.finFlag ∧
    (status s).stPayloadSize = s.rx.x.payloadSize ∧ (status s).stChecksum = s.rx.x.checksum ∧
    ((status s).stClosed = true ↔ s.rx.state = .terminated)

/-- 60_exceptions.md R220: the numbers of the five exceptions and conditions; which of them the error results of Encode and
Decode are; and the RESP_CODE and, once answered, the TERM_CAUSE that each framing error is recorded with, as numbers. -/
def Obligations.ExceptionNumbers : Prop :=
  Exc.encodingError.number = 1 ∧ Exc.malformedHeaderError.number = 2 ∧ Exc.checksumError.number = 3 ∧
    Exc.shortPayload.number = 4 ∧ Exc.unexpectedFault.number = 5 ∧
    (∀ k, (EncodeResult.encodingError k).exc = some .encodingError) ∧
    (∀ n, (DecodeResult.malformedHeader n).exc = some .malformedHeaderError) ∧
    (∀ c d, (DecodeResult.checksumError c d).exc = some .checksumError) ∧
    (∀ bs h, (EncodeResult.header bs).exc = none ∧ (DecodeResult.fields h).exc = none) ∧
    ∀ (e : FramingError) (s t : State),
      (status (raiseFraming e s)).stRespCode.toNat = (if (FramingError.exc e).number = 2 then 5 else 6) ∧
        (s.rx.state = .responding → s.rx.respCode = .ofError e →
          s.rx.respIdx.toNat = (respBytes s.rx.respCode s.rx.x.payloadSize).length → exec .next s = .next t →
          (status t).stTermCause.toNat = (if (FramingError.exc e).number = 2 then 3 else 4))

/-! ## The events of the stream -/

/-- 00_scope.md R12, 42_session_sequencer.md R169, 60_exceptions.md R235: InByte(b) is the stream's next byte, and InEos is
end-of-data that the stream signals. A byte that is not the stream's next one, or end-of-data while a byte is offered or
in_eos is low, is no event, so no operation on it, the rows SHORTHDR and ERROR_PATH included, takes a step. That an
operation without its event answers the unchanged state is the model's reading of a stall, log entries 8 and 13; RECV_HEADER
at HDR_CNT = 14 is log entry 9. -/
def Obligations.StreamEventsComeFromTheStream : Prop :=
  ∀ s : State,
    (∀ b : Byte, s.env.stream.bytes.head? ≠ some b →
      (s.rx.hdrCnt.val ≤ 13 → exec (.recvHeader (.byte b)) s = .next s) ∧
        exec (.readPayload (.byte b)) s = .next s) ∧
    (inValid s = true ∨ inEos s = false →
      (s.rx.hdrCnt.val ≤ 13 → exec (.recvHeader .eos) s = .next s) ∧ exec (.readPayload .eos) s = .next s ∧
        exec (.errorPath .malformedHeader) s = .next s ∧ ∀ bs : List Byte, exec (.shorthdr bs) s = .next s)
end

