-- ==== Sys2Proof/Laws/Codec.lean ====
section
/-! SUPPORT. The laws of the operand forms that later proofs cite: big-endian numbers, the bytes of a header and its
fields, and the length of a response (spec 20_memory.md R62, 30_encoding.md R95, 43_response_generator.md R210). -/

namespace Sys2Proof.Machine

/-! ## Big-endian numbers -/

@[simp] theorem beValue_two (a b : Byte) : beValue [a, b] = a.toNat * 256 + b.toNat := by
  simp [beValue]

@[simp] theorem beValue_four (a b c d : Byte) :
    beValue [a, b, c, d] = a.toNat * 16777216 + b.toNat * 65536 + c.toNat * 256 + d.toNat := by
  simp only [beValue, List.foldl_cons, List.foldl_nil]
  omega

@[simp] theorem spell_length (n v : Nat) : (spell n v).length = n := by
  simp [spell]

@[simp] theorem spell_one (v : Nat) : spell 1 v = [BitVec.ofNat 8 v] := by
  simp [spell]

@[simp] theorem spell_two (v : Nat) : spell 2 v = [BitVec.ofNat 8 (v / 256), BitVec.ofNat 8 v] := by
  simp [spell, List.range_succ]

@[simp] theorem spell_four (v : Nat) :
    spell 4 v =
      [BitVec.ofNat 8 (v / 16777216), BitVec.ofNat 8 (v / 65536), BitVec.ofNat 8 (v / 256), BitVec.ofNat 8 v] := by
  simp [spell, List.range_succ]

theorem half_of_spelling (v : Half) :
    BitVec.ofNat 16 ((BitVec.ofNat 8 (v.toNat / 256)).toNat * 256 + (BitVec.ofNat 8 v.toNat).toNat) = v := by
  apply BitVec.eq_of_toNat_eq
  simp only [BitVec.toNat_ofNat]
  have := v.isLt
  omega

theorem word_of_spelling (v : Word) :
    BitVec.ofNat 32 ((BitVec.ofNat 8 (v.toNat / 16777216)).toNat * 16777216 +
      (BitVec.ofNat 8 (v.toNat / 65536)).toNat * 65536 + (BitVec.ofNat 8 (v.toNat / 256)).toNat * 256 +
        (BitVec.ofNat 8 v.toNat).toNat) = v := by
  apply BitVec.eq_of_toNat_eq
  simp only [BitVec.toNat_ofNat]
  have := v.isLt
  omega

/-! ## Headers as bytes -/

/-- Fourteen bytes, one by one. -/
theorem fourteen_bytes {bs : List Byte} (h : bs.length = 14) :
    ∃ b0 b1 b2 b3 b4 b5 b6 b7 b8 b9 b10 b11 b12 b13 : Byte,
      bs = [b0, b1, b2, b3, b4, b5, b6, b7, b8, b9, b10, b11, b12, b13] := by
  match bs, h with
  | [b0, b1, b2, b3, b4, b5, b6, b7, b8, b9, b10, b11, b12, b13], _ =>
    exact ⟨b0, b1, b2, b3, b4, b5, b6, b7, b8, b9, b10, b11, b12, b13, rfl⟩

@[simp] theorem fieldBytes_length (f : FieldTuple) : (fieldBytes f).length = 13 := by
  simp [fieldBytes]

@[simp] theorem encodeFields_length (f : FieldTuple) : (encodeFields f).length = 14 := by
  simp [encodeFields]

@[simp] theorem headerBytes_length (h : Header) : (headerBytes h).length = 14 := by
  simp [headerBytes]

/-- The fields read back from a header's own bytes. -/
@[simp] theorem headerOfBytes_headerBytes (h : Header) : headerOfBytes (headerBytes h) = h := by
  simp only [headerOfBytes, headerBytes, fieldBytes, fieldsOf, spell_two, spell_four, be, List.cons_append,
    List.nil_append, List.drop_succ_cons, List.drop_zero, List.take_succ_cons, List.take_zero,
    beValue_two, beValue_four, List.getD_cons_succ, List.getD_cons_zero, half_of_spelling, word_of_spelling]

theorem byte_high (a b : Byte) : BitVec.ofNat 8 ((BitVec.ofNat 16 (a.toNat * 256 + b.toNat)).toNat / 256) = a := by
  apply BitVec.eq_of_toNat_eq
  simp only [BitVec.toNat_ofNat]
  have := a.isLt
  have := b.isLt
  omega

theorem byte_low (a b : Byte) : BitVec.ofNat 8 (BitVec.ofNat 16 (a.toNat * 256 + b.toNat)).toNat = b := by
  apply BitVec.eq_of_toNat_eq
  simp only [BitVec.toNat_ofNat]
  have := a.isLt
  have := b.isLt
  omega

theorem bytes_of_word (a b c d : Byte) :
    let v := (BitVec.ofNat 32 (a.toNat * 16777216 + b.toNat * 65536 + c.toNat * 256 + d.toNat)).toNat
    BitVec.ofNat 8 (v / 16777216) = a ∧ BitVec.ofNat 8 (v / 65536) = b ∧ BitVec.ofNat 8 (v / 256) = c ∧
      BitVec.ofNat 8 v = d := by
  have := a.isLt
  have := b.isLt
  have := c.isLt
  have := d.isLt
  refine ⟨?_, ?_, ?_, ?_⟩ <;>
  · apply BitVec.eq_of_toNat_eq
    simp only [BitVec.toNat_ofNat]
    omega

/-- The bytes of the fields read from fourteen bytes are those bytes. -/
theorem headerBytes_headerOfBytes {bs : List Byte} (h : bs.length = 14) : headerBytes (headerOfBytes bs) = bs := by
  obtain ⟨b0, b1, b2, b3, b4, b5, b6, b7, b8, b9, b10, b11, b12, b13, rfl⟩ := fourteen_bytes h
  obtain ⟨h4, h5, h6, h7⟩ := bytes_of_word b4 b5 b6 b7
  simp only [headerOfBytes, headerBytes, fieldBytes, fieldsOf, spell_two, spell_four, be, List.cons_append,
    List.nil_append, List.drop_succ_cons, List.drop_zero, List.take_succ_cons, List.take_zero,
    beValue_two, beValue_four, List.getD_cons_succ, List.getD_cons_zero, byte_high, byte_low, h4, h5, h6, h7]

/-- A header's bytes have the right checksum exactly when its checksum byte is the sum of its fields' bytes. -/
theorem checksumRight_headerBytes (h : Header) :
    checksumRight (headerBytes h) = (checksum (fieldBytes (fieldsOf h)) == h.checksum) := by
  have ht : (headerBytes h).take 13 = fieldBytes (fieldsOf h) := by
    rw [headerBytes, List.take_left' (fieldBytes_length _)]
  have hd : (headerBytes h).getD 13 0 = h.checksum := by
    simp [headerBytes, List.getD]
  rw [checksumRight, Config.ckLen, ht, hd]

/-- Decode of fourteen bytes with the right checksum. -/
theorem decodeHeader_right {bs : List Byte} (h : bs.length = 14) (hc : checksumRight bs = true) :
    decodeHeader bs = .fields (headerOfBytes bs) := by
  simp [decodeHeader, Config.hdrLen, h, hc]

/-- Decode of fourteen bytes with the wrong checksum. -/
theorem decodeHeader_wrong {bs : List Byte} (h : bs.length = 14) (hc : checksumRight bs = false) :
    decodeHeader bs = .checksumError (checksum (bs.take 13)) (bs.getD 13 0) := by
  simp [decodeHeader, Config.hdrLen, Config.ckLen, h, hc]

/-- What a successful Decode says. -/
theorem decodeHeader_fields {bs : List Byte} {h : Header} (hd : decodeHeader bs = .fields h) :
    bs.length = 14 ∧ checksumRight bs = true ∧ h = headerOfBytes bs := by
  have h14 : Config.hdrLen = 14 := rfl
  by_cases h1 : bs.length < 14
  · simp [decodeHeader, h14, h1] at hd
  · by_cases h2 : 14 < bs.length
    · simp [decodeHeader, h14, h1, h2] at hd
    · have hl : bs.length = 14 := by omega
      cases hc : checksumRight bs with
      | true => rw [decodeHeader_right hl hc] at hd; exact ⟨hl, rfl, by simpa using hd.symm⟩
      | false => rw [decodeHeader_wrong hl hc] at hd; simp at hd

/-! ## Field tuples, integers and bytes -/

/-- The fields read back from the thirteen bytes of format F13 and any checksum byte. -/
theorem fieldsOf_headerOfBytes_append (f : FieldTuple) (c : Byte) :
    fieldsOf (headerOfBytes (fieldBytes f ++ [c])) = f := by
  have := headerOfBytes_headerBytes
    { sourcePort := f.sourcePort, destPort := f.destPort, sequenceNumber := f.sequenceNumber, ackFlag := f.ack
      synFlag := f.syn, finFlag := f.fin, payloadSize := f.payloadSize, checksum := c }
  simp only [headerBytes, fieldsOf] at this
  rw [this]
  rfl

/-- The fields read back from the thirteen bytes of format F13. -/
theorem fieldsOfBytes_fieldBytes (f : FieldTuple) : fieldsOfBytes (fieldBytes f) = f := by
  simp only [fieldsOfBytes, headerOfBytes, fieldBytes, spell_two, spell_four, be, List.cons_append,
    List.nil_append, List.drop_succ_cons, List.drop_zero, List.take_succ_cons, List.take_zero, beValue_two,
    beValue_four, List.getD_cons_succ, List.getD_cons_zero, half_of_spelling, word_of_spelling, fieldsOf]

/-- The fields' bytes of fourteen bytes are the first thirteen. -/
theorem fieldBytes_headerOfBytes {bs : List Byte} (h : bs.length = 14) :
    fieldBytes (fieldsOf (headerOfBytes bs)) = bs.take 13 := by
  have := congrArg (List.take 13) (headerBytes_headerOfBytes h)
  rwa [headerBytes, List.take_left' (fieldBytes_length _)] at this

/-- Integers that fit come back from pin widths. -/
theorem widen_narrow {t : IntTuple} (h : firstMisfit t = none) : widen (narrow t) = t := by
  obtain ⟨a, b, c, d, e, f, g⟩ := t
  simp only [firstMisfit] at h
  repeat' split at h
  all_goals try simp at h
  simp only [fits, Bool.not_eq_false, Bool.and_eq_true, decide_eq_true_eq] at *
  simp only [widen, narrow, BitVec.toNat_ofNat, IntTuple.mk.injEq]
  refine ⟨?_, ?_, ?_, ?_, ?_, ?_, ?_⟩ <;> omega

theorem narrow_widen (f : FieldTuple) : narrow (widen f) = f := by
  obtain ⟨a, b, c, d, e, f, g⟩ := f
  simp [narrow, widen]

theorem fits_natCast {w n : Nat} (h : n < 2 ^ w) : fits w (n : Int) = true := by
  simp only [fits, Bool.and_eq_true, decide_eq_true_eq]
  exact ⟨by positivity, by exact_mod_cast h⟩

/-- A tuple at pin widths always fits (R125). -/
theorem firstMisfit_widen (f : FieldTuple) : firstMisfit (widen f) = none := by
  obtain ⟨a, b, c, d, e, f, g⟩ := f
  simp only [firstMisfit, widen, fits_natCast a.isLt, fits_natCast b.isLt, fits_natCast c.isLt, fits_natCast d.isLt,
    fits_natCast e.isLt, fits_natCast f.isLt, fits_natCast g.isLt, if_false, Bool.true_eq_false]

/-- Encode at pin widths (R124, R125). -/
theorem encodeHeader_widen (f : FieldTuple) : encodeHeader (widen f) = .header (encodeFields f) := by
  rw [encodeHeader, firstMisfit_widen, narrow_widen]

/-- What a header that Encode returns is. -/
theorem encodeHeader_header {t : IntTuple} {bs : List Byte} (h : encodeHeader t = .header bs) :
    firstMisfit t = none ∧ bs = encodeFields (narrow t) := by
  simp only [encodeHeader] at h
  split at h <;> simp at h
  exact ⟨‹_›, h.symm⟩

/-- What Encode writes has the right checksum. -/
theorem checksumRight_encodeFields (f : FieldTuple) : checksumRight (encodeFields f) = true := by
  simp [checksumRight, Config.ckLen, encodeFields]

/-! ## The checksum -/

theorem checksum_toNat (bs : List Byte) : (checksum bs).toNat = (bs.map BitVec.toNat).sum % 256 := by
  simp [checksum, Config.ckMod, byteSum]

/-- One byte exchanged in a sum. -/
theorem byteSum_set (bs : List Byte) (i : Nat) (d : Byte) (h : i < bs.length) :
    byteSum (bs.set i d) + (bs.getD i 0).toNat = byteSum bs + d.toNat := by
  induction bs generalizing i with
  | nil => simp at h
  | cons b bs ih =>
    cases i with
    | zero => simp [byteSum]; omega
    | succ i =>
      have := ih i (by simpa using h)
      simp [byteSum] at *
      omega

theorem checksumRight_iff (bs : List Byte) :
    checksumRight bs = true ↔ ((bs.take 13).map BitVec.toNat).sum % 256 = (bs.getD 13 0).toNat := by
  rw [← checksum_toNat, BitVec.toNat_inj, checksumRight, beq_iff_eq]
  rfl

/-! ## Responses -/

@[simp] theorem respLen_none (n : Half) : respLen .none n = 0 := rfl
@[simp] theorem respLen_syn (n : Half) : respLen .syn n = 37 := rfl
@[simp] theorem respLen_ack (n : Half) : respLen .ack n = 37 := rfl
@[simp] theorem respLen_fin (n : Half) : respLen .fin n = 35 := rfl
@[simp] theorem respLen_errMalformed (n : Half) : respLen .errMalformed n = 33 := rfl

theorem decDigits_length_le : ∀ k n : Nat, (decDigits k n).length ≤ k
  | 0, _ => Nat.le_refl 0
  | k + 1, n => by
    simp only [decDigits]
    split
    · simp
    · have := decDigits_length_le k (n / 10)
      simp only [List.length_append, List.length_singleton]
      omega

/-- No response is longer than RESP_IDX can count (R210, 92_eei_decisions.md D36). -/
theorem respLen_le (c : RespCode) (n : Half) : respLen c n ≤ 255 := by
  cases c
  case data =>
    have := decDigits_length_le 5 n.toNat
    simp only [respLen, respBytes, dec, List.length_append]
    have : textData.length = 34 := rfl
    omega
  case errChecksum =>
    have := Config.msgChecksumLen.isLt
    simp only [respLen, respBytes, Config.msgChecksum, List.length_append, List.length_map, List.length_range]
    have : textErr.length = 7 := rfl
    omega
  all_goals simp

end Sys2Proof.Machine
end

