-- ==== Sys2Proof/Laws/Memory.lean ====
section
/-! SUPPORT. The laws of the two buffers: what a byte reads as after a write, that every operation keeps the canonical
form, and that buffers in canonical form with equal bytes are equal (spec 20_memory.md R60 to R64, R71). -/

namespace Sys2Proof.Machine

/-! ## The canonical form -/

theorem Memory.wfFrom_mono {lo lo' : Nat} (h : lo' ≤ lo) :
    ∀ {m : Memory}, Memory.wfFrom lo m = true → Memory.wfFrom lo' m = true
  | [], _ => rfl
  | (k, b) :: m, hw => by
    simp only [Memory.wfFrom, Bool.and_eq_true, decide_eq_true_eq] at hw ⊢
    exact ⟨⟨⟨by omega, hw.1.1.2⟩, hw.1.2⟩, hw.2⟩

theorem Memory.read_below {a : Nat} :
    ∀ {m : Memory} {lo : Nat}, Memory.wfFrom lo m = true → a < lo → Memory.read m a = 0
  | [], _, _, _ => rfl
  | (k, b) :: m, lo, hw, ha => by
    simp only [Memory.wfFrom, Bool.and_eq_true, decide_eq_true_eq] at hw
    have hk : a ≠ k := by omega
    simp only [Memory.read, hk, if_false]
    exact Memory.read_below hw.2 (by omega)

/-- An offset outside the buffer holds nothing. -/
theorem Memory.read_outside {a : Nat} (ha : 14 ≤ a) :
    ∀ {m : Memory} {lo : Nat}, Memory.wfFrom lo m = true → Memory.read m a = 0
  | [], _, _ => rfl
  | (k, b) :: m, lo, hw => by
    simp only [Memory.wfFrom, Bool.and_eq_true, decide_eq_true_eq] at hw
    have hin : k < 14 := hw.1.1.2
    have hk : a ≠ k := by omega
    simp only [Memory.read, hk, if_false]
    exact Memory.read_outside ha hw.2

theorem Memory.cell_wfFrom {lo a : Nat} {b : Byte} {m : Memory} (hlo : lo ≤ a) (ha : a < 14)
    (hm : Memory.wfFrom (a + 1) m = true) : Memory.wfFrom lo (Memory.cell a b m) = true := by
  unfold Memory.cell
  split
  next => exact Memory.wfFrom_mono (by omega) hm
  next hb =>
    simp only [Memory.wfFrom, Bool.and_eq_true, decide_eq_true_eq, bne_iff_ne]
    exact ⟨⟨⟨hlo, ha⟩, hb⟩, hm⟩

/-- A write inside the buffer keeps the canonical form. -/
theorem Memory.write_wfFrom {a : Nat} {b : Byte} (ha : a < 14) :
    ∀ {m : Memory} {lo : Nat}, lo ≤ a → Memory.wfFrom lo m = true → Memory.wfFrom lo (Memory.write m a b) = true
  | [], lo, hlo, _ => by
    simpa [Memory.write] using Memory.cell_wfFrom (m := []) hlo ha rfl
  | (k, c) :: m, lo, hlo, hw => by
    have hw' := hw
    simp only [Memory.wfFrom, Bool.and_eq_true, decide_eq_true_eq] at hw'
    simp only [Memory.write]
    split
    · apply Memory.cell_wfFrom hlo ha
      simp only [Memory.wfFrom, Bool.and_eq_true, decide_eq_true_eq]
      exact ⟨⟨⟨by omega, hw'.1.1.2⟩, hw'.1.2⟩, hw'.2⟩
    · split
      · subst a
        exact Memory.cell_wfFrom hlo ha hw'.2
      · simp only [Memory.wfFrom, Bool.and_eq_true, decide_eq_true_eq]
        exact ⟨hw'.1, Memory.write_wfFrom ha (by omega) hw'.2⟩

theorem Memory.write_wf {m : Memory} {a : Nat} {b : Byte} (ha : a < 14) (hm : Memory.wf m = true) :
    Memory.wf (Memory.write m a b) = true :=
  Memory.write_wfFrom ha (Nat.zero_le a) hm

theorem Memory.store_wf {bs : List Byte} :
    ∀ {m : Memory} {a : Nat}, a + bs.length ≤ 14 → Memory.wf m = true → Memory.wf (Memory.store m a bs) = true := by
  induction bs with
  | nil => intro m a _ hm; exact hm
  | cons b bs ih =>
    intro m a ha hm
    simp only [List.length_cons] at ha
    exact ih (by omega) (Memory.write_wf (by omega) hm)

@[simp] theorem Memory.wf_nil : Memory.wf [] = true := rfl

/-! ## Reading after writing -/

theorem Memory.read_cell {lo a : Nat} {b : Byte} {m : Memory} (hm : Memory.wfFrom lo m = true) (hlo : a < lo) (c : Nat) :
    Memory.read (Memory.cell a b m) c = if c = a then b else Memory.read m c := by
  unfold Memory.cell
  split
  next hb =>
    split
    next hc => subst hc; rw [hb, Memory.read_below hm hlo]
    next => rfl
  next => simp [Memory.read]

/-- One byte written, every other byte as before. -/
theorem Memory.read_write {a : Nat} {b : Byte} (c : Nat) :
    ∀ {m : Memory} {lo : Nat}, Memory.wfFrom lo m = true →
      Memory.read (Memory.write m a b) c = if c = a then b else Memory.read m c
  | [], _, _ => by
    simpa [Memory.write] using Memory.read_cell (m := []) (lo := a + 1) rfl (by omega) c
  | (k, v) :: m, lo, hw => by
    have hw' := hw
    simp only [Memory.wfFrom, Bool.and_eq_true, decide_eq_true_eq] at hw'
    simp only [Memory.write]
    split
    next hak =>
      apply Memory.read_cell (lo := k) _ hak
      simp only [Memory.wfFrom, Bool.and_eq_true, decide_eq_true_eq]
      exact ⟨⟨⟨by omega, hw'.1.1.2⟩, hw'.1.2⟩, hw'.2⟩
    next hak =>
      split
      next hk =>
        subst hk
        rw [Memory.read_cell hw'.2 (by omega) c]
        simp only [Memory.read]
        split <;> simp_all
      next hk =>
        simp only [Memory.read, Memory.read_write c hw'.2]
        by_cases hck : c = k
        · subst hck
          have : c ≠ a := by omega
          simp [this]
        · simp [hck]

theorem Memory.read_write_self {m : Memory} {a : Nat} {b : Byte} (hm : Memory.wf m = true) :
    Memory.read (Memory.write m a b) a = b := by
  simp [Memory.read_write a hm]

theorem Memory.read_write_other {m : Memory} {a c : Nat} {b : Byte} (hm : Memory.wf m = true) (h : c ≠ a) :
    Memory.read (Memory.write m a b) c = Memory.read m c := by
  simp [Memory.read_write c hm, h]

/-- A store inside the buffer: its bytes at its offsets, every other byte as before. -/
theorem Memory.read_store {bs : List Byte} (c : Nat) :
    ∀ {m : Memory} {a : Nat}, a + bs.length ≤ 14 → Memory.wf m = true →
      Memory.read (Memory.store m a bs) c =
        if a ≤ c ∧ c < a + bs.length then bs.getD (c - a) 0 else Memory.read m c := by
  induction bs with
  | nil =>
    intro m a _ _
    have : ¬ (a ≤ c ∧ c < a + ([] : List Byte).length) := by simp
    rw [if_neg this]
    rfl
  | cons b bs ih =>
    intro m a ha hm
    simp only [List.length_cons] at ha
    simp only [Memory.store, List.length_cons]
    rw [ih (by omega) (Memory.write_wf (by omega) hm), Memory.read_write c hm]
    by_cases h0 : c = a
    · subst h0
      have h1 : ¬ (c + 1 ≤ c ∧ c < c + 1 + bs.length) := by omega
      have h2 : c ≤ c ∧ c < c + (bs.length + 1) := by omega
      rw [if_neg h1, if_pos h2, if_pos rfl, Nat.sub_self, List.getD_cons_zero]
    · by_cases h1 : a + 1 ≤ c ∧ c < a + 1 + bs.length
      · have h2 : a ≤ c ∧ c < a + (bs.length + 1) := by omega
        have h3 : c - a = (c - (a + 1)) + 1 := by omega
        simp only [h1, h2, and_self, if_true]
        rw [h3, List.getD_cons_succ]
      · have h2 : ¬ (a ≤ c ∧ c < a + (bs.length + 1)) := by omega
        simp only [h1, h2, if_false, h0]

/-! ## The 14 bytes -/

@[simp] theorem Memory.bytes_length (m : Memory) : (Memory.bytes m).length = 14 := by
  simp [Memory.bytes, Config.hdrLen]

theorem Memory.bytes_getD {m : Memory} {a : Nat} (ha : a < 14) :
    (Memory.bytes m).getD a 0 = Memory.read m a := by
  simp [Memory.bytes, Config.hdrLen, List.getD, ha]

/-- A whole header stored in an empty buffer reads back as its bytes. -/
theorem Memory.bytes_store {bs : List Byte} (h : bs.length = 14) :
    Memory.bytes (Memory.store [] 0 bs) = bs := by
  apply List.ext_getElem
  · simp [h]
  · intro i h1 h2
    have hi : i < 14 := by simpa using h1
    have hd : (Memory.bytes (Memory.store [] 0 bs)).getD i 0 = bs.getD i 0 := by
      rw [Memory.bytes_getD hi, Memory.read_store i (by omega) rfl]
      have : (0 ≤ i ∧ i < 0 + bs.length) := by omega
      rw [if_pos this]
      simp
    rwa [List.getD_eq_getElem _ _ h1, List.getD_eq_getElem _ _ h2] at hd

/-- Canonical buffers with the same bytes are the same data. -/
theorem Memory.ext_read : ∀ {m m' : Memory} {lo lo' : Nat}, Memory.wfFrom lo m = true → Memory.wfFrom lo' m' = true →
    (∀ a, Memory.read m a = Memory.read m' a) → m = m'
  | [], [], _, _, _, _, _ => rfl
  | [], (k, b) :: m', _, lo', _, hw', h => by
    simp only [Memory.wfFrom, Bool.and_eq_true, bne_iff_ne] at hw'
    exact absurd (by simpa [Memory.read] using (h k).symm) hw'.1.2
  | (k, b) :: m, [], lo, _, hw, _, h => by
    simp only [Memory.wfFrom, Bool.and_eq_true, bne_iff_ne] at hw
    exact absurd (by simpa [Memory.read] using h k) hw.1.2
  | (k, b) :: m, (k', b') :: m', lo, lo', hw, hw', h => by
    have h1 := hw
    have h2 := hw'
    simp only [Memory.wfFrom, Bool.and_eq_true, bne_iff_ne] at h1 h2
    have hk : k = k' := by
      rcases Nat.lt_trichotomy k k' with hlt | heq | hgt
      · have := h k
        rw [Memory.read_below (m := (k', b') :: m') (lo := k')] at this
        · exact absurd (by simpa [Memory.read] using this) h1.1.2
        · simpa [Memory.wfFrom] using ⟨⟨by simpa using h2.1.1.2, h2.1.2⟩, h2.2⟩
        · exact hlt
      · exact heq
      · have := h k'
        rw [Memory.read_below (m := (k, b) :: m) (lo := k)] at this
        · exact absurd (by simpa [Memory.read] using this.symm) h2.1.2
        · simpa [Memory.wfFrom] using ⟨⟨by simpa using h1.1.1.2, h1.1.2⟩, h1.2⟩
        · exact hgt
    subst hk
    have hb : b = b' := by simpa [Memory.read] using h k
    subst hb
    have hm : m = m' := by
      refine Memory.ext_read h1.2 h2.2 fun a => ?_
      by_cases hak : a = k
      · subst hak
        rw [Memory.read_below h1.2 (by omega), Memory.read_below h2.2 (by omega)]
      · simpa [Memory.read, hak] using h a
    rw [hm]

end Sys2Proof.Machine
end

