-- ==== Sys2Proof/Laws/State.lean ====
section
/-! SUPPORT. What each named update does to each field of the state, so that no later proof unfolds a record update. An
update that leaves a whole unit alone says so for the unit. -/

namespace Sys2Proof.Machine

variable (s : State)

/-! ## clearFrame -/

@[simp] theorem clearFrame_state : (clearFrame s).rx.state = s.rx.state := rfl
@[simp] theorem clearFrame_hdrBuf : (clearFrame s).rx.hdrBuf = [] := rfl
@[simp] theorem clearFrame_hdrCnt : (clearFrame s).rx.hdrCnt = 0 := rfl
@[simp] theorem clearFrame_hdrValid : (clearFrame s).rx.hdrValid = false := rfl
@[simp] theorem clearFrame_short : (clearFrame s).rx.short = false := rfl
@[simp] theorem clearFrame_payRem : (clearFrame s).rx.payRem = 0 := rfl
@[simp] theorem clearFrame_payCnt : (clearFrame s).rx.payCnt = 0 := rfl
@[simp] theorem clearFrame_respCode : (clearFrame s).rx.respCode = .none := rfl
@[simp] theorem clearFrame_respIdx : (clearFrame s).rx.respIdx = 0 := rfl
@[simp] theorem clearFrame_termCause : (clearFrame s).rx.termCause = s.rx.termCause := rfl
@[simp] theorem clearFrame_x : (clearFrame s).rx.x = zeroHeader := rfl
@[simp] theorem clearFrame_enc : (clearFrame s).enc = s.enc := rfl
@[simp] theorem clearFrame_env : (clearFrame s).env = s.env := rfl

/-! ## enterState -/

@[simp] theorem enterState_state (v : RxState) : (enterState v s).rx.state = v := rfl
@[simp] theorem enterState_hdrBuf (v : RxState) : (enterState v s).rx.hdrBuf = s.rx.hdrBuf := rfl
@[simp] theorem enterState_hdrCnt (v : RxState) : (enterState v s).rx.hdrCnt = s.rx.hdrCnt := rfl
@[simp] theorem enterState_hdrValid (v : RxState) : (enterState v s).rx.hdrValid = s.rx.hdrValid := rfl
@[simp] theorem enterState_short (v : RxState) : (enterState v s).rx.short = s.rx.short := rfl
@[simp] theorem enterState_payRem (v : RxState) : (enterState v s).rx.payRem = s.rx.payRem := rfl
@[simp] theorem enterState_payCnt (v : RxState) : (enterState v s).rx.payCnt = s.rx.payCnt := rfl
@[simp] theorem enterState_respCode (v : RxState) : (enterState v s).rx.respCode = s.rx.respCode := rfl
@[simp] theorem enterState_respIdx (v : RxState) : (enterState v s).rx.respIdx = s.rx.respIdx := rfl
@[simp] theorem enterState_termCause (v : RxState) : (enterState v s).rx.termCause = s.rx.termCause := rfl
@[simp] theorem enterState_x (v : RxState) : (enterState v s).rx.x = s.rx.x := rfl
@[simp] theorem enterState_enc (v : RxState) : (enterState v s).enc = s.enc := rfl
@[simp] theorem enterState_env (v : RxState) : (enterState v s).env = s.env := rfl

/-! ## startResponse -/

@[simp] theorem startResponse_state (c : RespCode) : (startResponse c s).rx.state = .responding := rfl
@[simp] theorem startResponse_hdrBuf (c : RespCode) : (startResponse c s).rx.hdrBuf = s.rx.hdrBuf := rfl
@[simp] theorem startResponse_hdrCnt (c : RespCode) : (startResponse c s).rx.hdrCnt = s.rx.hdrCnt := rfl
@[simp] theorem startResponse_hdrValid (c : RespCode) : (startResponse c s).rx.hdrValid = s.rx.hdrValid := rfl
@[simp] theorem startResponse_short (c : RespCode) : (startResponse c s).rx.short = s.rx.short := rfl
@[simp] theorem startResponse_payRem (c : RespCode) : (startResponse c s).rx.payRem = s.rx.payRem := rfl
@[simp] theorem startResponse_payCnt (c : RespCode) : (startResponse c s).rx.payCnt = s.rx.payCnt := rfl
@[simp] theorem startResponse_respCode (c : RespCode) : (startResponse c s).rx.respCode = c := rfl
@[simp] theorem startResponse_respIdx (c : RespCode) : (startResponse c s).rx.respIdx = 0 := rfl
@[simp] theorem startResponse_termCause (c : RespCode) : (startResponse c s).rx.termCause = s.rx.termCause := rfl
@[simp] theorem startResponse_x (c : RespCode) : (startResponse c s).rx.x = s.rx.x := rfl
@[simp] theorem startResponse_enc (c : RespCode) : (startResponse c s).enc = s.enc := rfl
@[simp] theorem startResponse_env (c : RespCode) : (startResponse c s).env = s.env := rfl

/-! ## raiseFraming -/

@[simp] theorem raiseFraming_state (e : FramingError) : (raiseFraming e s).rx.state = .responding := rfl
@[simp] theorem raiseFraming_hdrBuf (e : FramingError) : (raiseFraming e s).rx.hdrBuf = s.rx.hdrBuf := rfl
@[simp] theorem raiseFraming_hdrCnt (e : FramingError) : (raiseFraming e s).rx.hdrCnt = s.rx.hdrCnt := rfl
@[simp] theorem raiseFraming_hdrValid (e : FramingError) : (raiseFraming e s).rx.hdrValid = s.rx.hdrValid := rfl
@[simp] theorem raiseFraming_short (e : FramingError) : (raiseFraming e s).rx.short = s.rx.short := rfl
@[simp] theorem raiseFraming_payRem (e : FramingError) : (raiseFraming e s).rx.payRem = s.rx.payRem := rfl
@[simp] theorem raiseFraming_payCnt (e : FramingError) : (raiseFraming e s).rx.payCnt = s.rx.payCnt := rfl
@[simp] theorem raiseFraming_respCode (e : FramingError) : (raiseFraming e s).rx.respCode = .ofError e := rfl
@[simp] theorem raiseFraming_respIdx (e : FramingError) : (raiseFraming e s).rx.respIdx = 0 := rfl
@[simp] theorem raiseFraming_termCause (e : FramingError) : (raiseFraming e s).rx.termCause = s.rx.termCause := rfl
@[simp] theorem raiseFraming_x (e : FramingError) : (raiseFraming e s).rx.x = s.rx.x := rfl
@[simp] theorem raiseFraming_enc (e : FramingError) : (raiseFraming e s).enc = s.enc := rfl
@[simp] theorem raiseFraming_env (e : FramingError) : (raiseFraming e s).env = s.env := rfl

/-! ## terminate -/

@[simp] theorem terminate_state (c : TermCause) : (terminate c s).rx.state = .terminated := rfl
@[simp] theorem terminate_hdrBuf (c : TermCause) : (terminate c s).rx.hdrBuf = s.rx.hdrBuf := rfl
@[simp] theorem terminate_hdrCnt (c : TermCause) : (terminate c s).rx.hdrCnt = s.rx.hdrCnt := rfl
@[simp] theorem terminate_hdrValid (c : TermCause) : (terminate c s).rx.hdrValid = s.rx.hdrValid := rfl
@[simp] theorem terminate_short (c : TermCause) : (terminate c s).rx.short = s.rx.short := rfl
@[simp] theorem terminate_payRem (c : TermCause) : (terminate c s).rx.payRem = s.rx.payRem := rfl
@[simp] theorem terminate_payCnt (c : TermCause) : (terminate c s).rx.payCnt = s.rx.payCnt := rfl
@[simp] theorem terminate_respCode (c : TermCause) : (terminate c s).rx.respCode = s.rx.respCode := rfl
@[simp] theorem terminate_respIdx (c : TermCause) : (terminate c s).rx.respIdx = s.rx.respIdx := rfl
@[simp] theorem terminate_termCause (c : TermCause) : (terminate c s).rx.termCause = c := rfl
@[simp] theorem terminate_x (c : TermCause) : (terminate c s).rx.x = s.rx.x := rfl
@[simp] theorem terminate_enc (c : TermCause) : (terminate c s).enc = s.enc := rfl
@[simp] theorem terminate_env (c : TermCause) : (terminate c s).env = s.env := rfl

/-! ## loadFields -/

@[simp] theorem loadFields_state (h : Header) : (loadFields h s).rx.state = .readingPayload := rfl
@[simp] theorem loadFields_hdrBuf (h : Header) : (loadFields h s).rx.hdrBuf = s.rx.hdrBuf := rfl
@[simp] theorem loadFields_hdrCnt (h : Header) : (loadFields h s).rx.hdrCnt = s.rx.hdrCnt := rfl
@[simp] theorem loadFields_hdrValid (h : Header) : (loadFields h s).rx.hdrValid = true := rfl
@[simp] theorem loadFields_short (h : Header) : (loadFields h s).rx.short = s.rx.short := rfl
@[simp] theorem loadFields_payRem (h : Header) : (loadFields h s).rx.payRem = h.payloadSize := rfl
@[simp] theorem loadFields_payCnt (h : Header) : (loadFields h s).rx.payCnt = 0 := rfl
@[simp] theorem loadFields_respCode (h : Header) : (loadFields h s).rx.respCode = s.rx.respCode := rfl
@[simp] theorem loadFields_respIdx (h : Header) : (loadFields h s).rx.respIdx = s.rx.respIdx := rfl
@[simp] theorem loadFields_termCause (h : Header) : (loadFields h s).rx.termCause = s.rx.termCause := rfl
@[simp] theorem loadFields_x (h : Header) : (loadFields h s).rx.x = h := rfl
@[simp] theorem loadFields_enc (h : Header) : (loadFields h s).enc = s.enc := rfl
@[simp] theorem loadFields_env (h : Header) : (loadFields h s).env = s.env := rfl

/-! ## collectHeaderByte -/

@[simp] theorem collectHeaderByte_state (b : Byte) : (collectHeaderByte b s).rx.state = if s.rx.hdrCnt + 1 = 14 then .validating else s.rx.state := rfl
@[simp] theorem collectHeaderByte_hdrBuf (b : Byte) : (collectHeaderByte b s).rx.hdrBuf = Memory.write s.rx.hdrBuf s.rx.hdrCnt.val b := rfl
@[simp] theorem collectHeaderByte_hdrCnt (b : Byte) : (collectHeaderByte b s).rx.hdrCnt = s.rx.hdrCnt + 1 := rfl
@[simp] theorem collectHeaderByte_hdrValid (b : Byte) : (collectHeaderByte b s).rx.hdrValid = s.rx.hdrValid := rfl
@[simp] theorem collectHeaderByte_short (b : Byte) : (collectHeaderByte b s).rx.short = s.rx.short := rfl
@[simp] theorem collectHeaderByte_payRem (b : Byte) : (collectHeaderByte b s).rx.payRem = s.rx.payRem := rfl
@[simp] theorem collectHeaderByte_payCnt (b : Byte) : (collectHeaderByte b s).rx.payCnt = s.rx.payCnt := rfl
@[simp] theorem collectHeaderByte_respCode (b : Byte) : (collectHeaderByte b s).rx.respCode = s.rx.respCode := rfl
@[simp] theorem collectHeaderByte_respIdx (b : Byte) : (collectHeaderByte b s).rx.respIdx = s.rx.respIdx := rfl
@[simp] theorem collectHeaderByte_termCause (b : Byte) : (collectHeaderByte b s).rx.termCause = s.rx.termCause := rfl
@[simp] theorem collectHeaderByte_x (b : Byte) : (collectHeaderByte b s).rx.x = s.rx.x := rfl
@[simp] theorem collectHeaderByte_enc (b : Byte) : (collectHeaderByte b s).enc = s.enc := rfl
@[simp] theorem collectHeaderByte_env (b : Byte) : (collectHeaderByte b s).env = s.env := rfl

/-! ## consume -/

@[simp] theorem consume_rx (n : Nat) : (consume n s).rx = s.rx := rfl
@[simp] theorem consume_enc (n : Nat) : (consume n s).enc = s.enc := rfl
@[simp] theorem consume_pins (n : Nat) : (consume n s).env.pins = s.env.pins := rfl
@[simp] theorem consume_moves (n : Nat) : (consume n s).env.moves = s.env.moves := rfl
@[simp] theorem consume_stream (n : Nat) : (consume n s).env.stream = { s.env.stream with bytes := s.env.stream.bytes.drop n } := rfl
@[simp] theorem consume_payOut (n : Nat) : (consume n s).env.payOut = s.env.payOut := rfl
@[simp] theorem consume_respOut (n : Nat) : (consume n s).env.respOut = s.env.respOut := rfl
@[simp] theorem consume_txOut (n : Nat) : (consume n s).env.txOut = s.env.txOut := rfl
@[simp] theorem consume_rxPos (n : Nat) : (consume n s).env.rxPos = s.env.rxPos + n := rfl
@[simp] theorem consume_result (n : Nat) : (consume n s).env.result = s.env.result := rfl

/-! ## passPayload -/

@[simp] theorem passPayload_state (bs : List Byte) : (passPayload bs s).rx.state = s.rx.state := rfl
@[simp] theorem passPayload_hdrBuf (bs : List Byte) : (passPayload bs s).rx.hdrBuf = s.rx.hdrBuf := rfl
@[simp] theorem passPayload_hdrCnt (bs : List Byte) : (passPayload bs s).rx.hdrCnt = s.rx.hdrCnt := rfl
@[simp] theorem passPayload_hdrValid (bs : List Byte) : (passPayload bs s).rx.hdrValid = s.rx.hdrValid := rfl
@[simp] theorem passPayload_short (bs : List Byte) : (passPayload bs s).rx.short = s.rx.short := rfl
@[simp] theorem passPayload_payRem (bs : List Byte) : (passPayload bs s).rx.payRem = s.rx.payRem - BitVec.ofNat 16 bs.length := rfl
@[simp] theorem passPayload_payCnt (bs : List Byte) : (passPayload bs s).rx.payCnt = s.rx.payCnt + BitVec.ofNat 16 bs.length := rfl
@[simp] theorem passPayload_respCode (bs : List Byte) : (passPayload bs s).rx.respCode = s.rx.respCode := rfl
@[simp] theorem passPayload_respIdx (bs : List Byte) : (passPayload bs s).rx.respIdx = s.rx.respIdx := rfl
@[simp] theorem passPayload_termCause (bs : List Byte) : (passPayload bs s).rx.termCause = s.rx.termCause := rfl
@[simp] theorem passPayload_x (bs : List Byte) : (passPayload bs s).rx.x = s.rx.x := rfl
@[simp] theorem passPayload_enc (bs : List Byte) : (passPayload bs s).enc = s.enc := rfl
@[simp] theorem passPayload_pins (bs : List Byte) : (passPayload bs s).env.pins = s.env.pins := rfl
@[simp] theorem passPayload_moves (bs : List Byte) : (passPayload bs s).env.moves = s.env.moves := rfl
@[simp] theorem passPayload_stream (bs : List Byte) : (passPayload bs s).env.stream = s.env.stream := rfl
@[simp] theorem passPayload_payOut (bs : List Byte) : (passPayload bs s).env.payOut = s.env.payOut ++ bs := rfl
@[simp] theorem passPayload_respOut (bs : List Byte) : (passPayload bs s).env.respOut = s.env.respOut := rfl
@[simp] theorem passPayload_txOut (bs : List Byte) : (passPayload bs s).env.txOut = s.env.txOut := rfl
@[simp] theorem passPayload_rxPos (bs : List Byte) : (passPayload bs s).env.rxPos = s.env.rxPos := rfl
@[simp] theorem passPayload_result (bs : List Byte) : (passPayload bs s).env.result = s.env.result := rfl

/-! ## pushResponse -/

@[simp] theorem pushResponse_state : (pushResponse s).rx.state = s.rx.state := rfl
@[simp] theorem pushResponse_hdrBuf : (pushResponse s).rx.hdrBuf = s.rx.hdrBuf := rfl
@[simp] theorem pushResponse_hdrCnt : (pushResponse s).rx.hdrCnt = s.rx.hdrCnt := rfl
@[simp] theorem pushResponse_hdrValid : (pushResponse s).rx.hdrValid = s.rx.hdrValid := rfl
@[simp] theorem pushResponse_short : (pushResponse s).rx.short = s.rx.short := rfl
@[simp] theorem pushResponse_payRem : (pushResponse s).rx.payRem = s.rx.payRem := rfl
@[simp] theorem pushResponse_payCnt : (pushResponse s).rx.payCnt = s.rx.payCnt := rfl
@[simp] theorem pushResponse_respCode : (pushResponse s).rx.respCode = s.rx.respCode := rfl
@[simp] theorem pushResponse_respIdx : (pushResponse s).rx.respIdx = s.rx.respIdx + 1 := rfl
@[simp] theorem pushResponse_termCause : (pushResponse s).rx.termCause = s.rx.termCause := rfl
@[simp] theorem pushResponse_x : (pushResponse s).rx.x = s.rx.x := rfl
@[simp] theorem pushResponse_enc : (pushResponse s).enc = s.enc := rfl
@[simp] theorem pushResponse_pins : (pushResponse s).env.pins = s.env.pins := rfl
@[simp] theorem pushResponse_moves : (pushResponse s).env.moves = s.env.moves := rfl
@[simp] theorem pushResponse_stream : (pushResponse s).env.stream = s.env.stream := rfl
@[simp] theorem pushResponse_payOut : (pushResponse s).env.payOut = s.env.payOut := rfl
@[simp] theorem pushResponse_respOut : (pushResponse s).env.respOut = s.env.respOut ++
    [{ data := (respBytes s.rx.respCode s.rx.x.payloadSize).getD s.rx.respIdx.toNat 0
       last := decide (s.rx.respIdx.toNat + 1 = (respBytes s.rx.respCode s.rx.x.payloadSize).length) }] := rfl
@[simp] theorem pushResponse_txOut : (pushResponse s).env.txOut = s.env.txOut := rfl
@[simp] theorem pushResponse_rxPos : (pushResponse s).env.rxPos = s.env.rxPos := rfl
@[simp] theorem pushResponse_result : (pushResponse s).env.result = s.env.result := rfl

/-! ## setResult -/

@[simp] theorem setResult_rx (r : FnResult) : (setResult r s).rx = s.rx := rfl
@[simp] theorem setResult_enc (r : FnResult) : (setResult r s).enc = s.enc := rfl
@[simp] theorem setResult_pins (r : FnResult) : (setResult r s).env.pins = s.env.pins := rfl
@[simp] theorem setResult_moves (r : FnResult) : (setResult r s).env.moves = s.env.moves := rfl
@[simp] theorem setResult_stream (r : FnResult) : (setResult r s).env.stream = s.env.stream := rfl
@[simp] theorem setResult_payOut (r : FnResult) : (setResult r s).env.payOut = s.env.payOut := rfl
@[simp] theorem setResult_respOut (r : FnResult) : (setResult r s).env.respOut = s.env.respOut := rfl
@[simp] theorem setResult_txOut (r : FnResult) : (setResult r s).env.txOut = s.env.txOut := rfl
@[simp] theorem setResult_rxPos (r : FnResult) : (setResult r s).env.rxPos = s.env.rxPos := rfl
@[simp] theorem setResult_result (r : FnResult) : (setResult r s).env.result = r := rfl

/-! ## loadTx -/

@[simp] theorem loadTx_rx (f : FieldTuple) : (loadTx f s).rx = s.rx := rfl
@[simp] theorem loadTx_txBuf (f : FieldTuple) : (loadTx f s).enc.txBuf = Memory.store [] 0 (encodeFields f) := rfl
@[simp] theorem loadTx_txIdx (f : FieldTuple) : (loadTx f s).enc.txIdx = 0 := rfl
@[simp] theorem loadTx_env (f : FieldTuple) : (loadTx f s).env = s.env := rfl

/-! ## pushTx -/

@[simp] theorem pushTx_rx : (pushTx s).rx = s.rx := rfl
@[simp] theorem pushTx_txBuf : (pushTx s).enc.txBuf = s.enc.txBuf := rfl
@[simp] theorem pushTx_txIdx : (pushTx s).enc.txIdx = s.enc.txIdx + 1 := rfl
@[simp] theorem pushTx_pins : (pushTx s).env.pins = s.env.pins := rfl
@[simp] theorem pushTx_moves : (pushTx s).env.moves = s.env.moves := rfl
@[simp] theorem pushTx_stream : (pushTx s).env.stream = s.env.stream := rfl
@[simp] theorem pushTx_payOut : (pushTx s).env.payOut = s.env.payOut := rfl
@[simp] theorem pushTx_respOut : (pushTx s).env.respOut = s.env.respOut := rfl
@[simp] theorem pushTx_txOut : (pushTx s).env.txOut = s.env.txOut ++
    [{ data := Memory.read s.enc.txBuf s.enc.txIdx.val, last := decide (s.enc.txIdx.val = 13) }] := rfl
@[simp] theorem pushTx_rxPos : (pushTx s).env.rxPos = s.env.rxPos := rfl
@[simp] theorem pushTx_result : (pushTx s).env.result = s.env.result := rfl

/-! ## resetUnits -/

@[simp] theorem resetUnits_rx : (resetUnits s).rx = RxRegs.reset := rfl
@[simp] theorem resetUnits_enc : (resetUnits s).enc = EncRegs.reset := rfl
@[simp] theorem resetUnits_env : (resetUnits s).env = s.env := rfl

end Sys2Proof.Machine
end

