-- ==== Sys2Proof/Laws/Exec.lean ====
section
/-! SUPPORT. For each meaning, everything it can do when it answers a next state: it takes no step, or its condition
holds and the next state is the one named. Later proofs cite these and unfold no meaning. -/

namespace Sys2Proof.Machine

open Host

variable {s t : State}

@[simp] theorem noStep_eq (s : State) : noStep s = .next s := rfl

/-! ## Counters that end at 14 -/

theorem ne_fourteen (c : Fin 15) : c ≠ 14 ↔ c.val ≤ 13 := by
  revert c
  decide

theorem ne_zero (c : Fin 15) : c ≠ 0 ↔ 1 ≤ c.val := by
  revert c
  decide

theorem add_one_eq_fourteen (c : Fin 15) : c + 1 = 14 ↔ c.val = 13 := by
  revert c
  decide

/-! ## The codec (R121, R124, R127) -/

theorem execChecksum_next {bs : List Byte} (h : execChecksum bs s = .next t) :
    bs.length = 13 ∧ t = setResult (.checksum (checksum bs)) s := by
  rw [execChecksum, Config.ckLen] at h
  split at h
  · exact ⟨‹_›, by simpa using h.symm⟩
  · simp at h

theorem execEncode_next {u : IntTuple} (h : execEncode u s = .next t) :
    t = setResult (.encode (encodeHeader u)) s := by
  simpa [execEncode] using h.symm

theorem execDecode_next {bs : List Byte} (h : execDecode bs s = .next t) :
    bs.length ≤ 14 ∧ t = setResult (.decode (decodeHeader bs)) s := by
  rw [execDecode, Config.hdrLen] at h
  split at h
  · exact ⟨‹_›, by simpa using h.symm⟩
  · simp at h

/-! ## Unit ENC (R131, R132) -/

theorem execEncCmd_next {f : FieldTuple} (h : execEncCmd f s = .next t) :
    s.enc.txIdx ≠ 14 ∧ t = s ∨ s.enc.txIdx = 14 ∧ t = loadTx f s := by
  rw [execEncCmd] at h
  split at h
  · exact .inr ⟨‹_›, by simpa using h.symm⟩
  · exact .inl ⟨‹_›, by simpa using h.symm⟩

theorem execEncByte_next (h : execEncByte s = .next t) :
    s.enc.txIdx = 14 ∧ t = s ∨ s.enc.txIdx ≠ 14 ∧ t = pushTx s := by
  rw [execEncByte] at h
  split at h
  · exact .inl ⟨‹_›, by simpa using h.symm⟩
  · exact .inr ⟨‹_›, by simpa using h.symm⟩

/-- TX_BUF after a command: the encoded header, in canonical form. -/
theorem loadTx_bytes (f : FieldTuple) (s : State) : Memory.bytes (loadTx f s).enc.txBuf = encodeFields f := by
  rw [loadTx_txBuf, Memory.bytes_store (encodeFields_length f)]

theorem loadTx_wf (f : FieldTuple) (s : State) : Memory.wf (loadTx f s).enc.txBuf = true := by
  have h : 0 + (encodeFields f).length ≤ 14 := by rw [encodeFields_length]
  rw [loadTx_txBuf]
  exact Memory.store_wf h Memory.wf_nil

/-! ## The events of the stream (00_scope.md R12) -/

/-- InByte(b) can happen exactly when b stands first in the stream. -/
theorem deliversByte_iff {b : Byte} : deliversByte b s = true ↔ ∃ rest, s.env.stream.bytes = b :: rest := by
  rw [deliversByte, beq_iff_eq, List.head?_eq_some_iff]

/-- InEos can happen exactly when no byte is offered and in_eos is high. -/
theorem endOfData_iff : endOfData s = true ↔ inValid s = false ∧ inEos s = true := by
  simp [endOfData]

/-- The byte offered at the pins is the stream's next one. -/
theorem deliversByte_inData (h : inValid s = true) : deliversByte (inData s) s = true := by
  simp only [inData, h, if_true]
  have hne : s.env.stream.bytes ≠ [] := by
    intro he
    simp [inValid, he] at h
  obtain ⟨b, rest, he⟩ := List.exists_cons_of_ne_nil hne
  simp [deliversByte, he]

/-- A stream that has delivered its last byte and ends signals end-of-data at any pin levels. -/
theorem endOfData_at_end (hb : s.env.stream.bytes = []) (he : s.env.stream.ends = true) : endOfData s = true := by
  simp [endOfData, inValid, inEos, hb, he]

/-- What the stream does depends on the environment only. -/
theorem deliversByte_congr {b : Byte} (h : t.env = s.env) : deliversByte b t = deliversByte b s := by
  simp [deliversByte, h]

theorem endOfData_congr (h : t.env = s.env) : endOfData t = endOfData s := by
  simp [endOfData, inValid, inEos, h]

/-! ## The payload reader (R150, R173 to R175) -/

theorem execReadPayload_next {e : PayloadEvent} (h : execReadPayload e s = .next t) :
    t = s ∨ s.rx.state = .readingPayload ∧
      ((∃ b, e = .byte b ∧ s.rx.payRem ≠ 0 ∧ deliversByte b s = true ∧ t = passPayload [b] (consume 1 s)) ∨
        (e = .eos ∧ s.rx.payRem ≠ 0 ∧ endOfData s = true ∧
          t = enterState .dispatching { s with rx := { s.rx with short := true } }) ∨
        (e = .done ∧ s.rx.payRem = 0 ∧ t = enterState .dispatching s)) := by
  unfold execReadPayload at h
  split at h
  · rename_i hs
    cases e with
    | byte b =>
      dsimp only at h
      split at h
      next hc => exact .inr ⟨hs, .inl ⟨b, rfl, hc.1, hc.2, by simpa using h.symm⟩⟩
      next => exact .inl (by simpa using h.symm)
    | eos =>
      dsimp only at h
      split at h
      next hc => exact .inr ⟨hs, .inr (.inl ⟨rfl, hc.1, hc.2, by simpa using h.symm⟩)⟩
      next => exact .inl (by simpa using h.symm)
    | done =>
      dsimp only at h
      split at h
      · exact .inr ⟨hs, .inr (.inr ⟨rfl, ‹_›, by simpa using h.symm⟩)⟩
      · exact .inl (by simpa using h.symm)
  · exact .inl (by simpa using h.symm)

/-- The state in which READ_EXACT has taken `got`. -/
theorem execReadExact_next {n : Half} (h : execReadExact n s = .next t) :
    t = s ∨ s.rx.state = .readingPayload ∧ s.rx.payRem = n ∧
      ((n.toNat ≤ s.env.stream.bytes.length ∧
          t = setResult (.read (s.env.stream.bytes.take n.toNat)) (enterState .dispatching
            (passPayload (s.env.stream.bytes.take n.toNat) (consume n.toNat s)))) ∨
        (s.env.stream.bytes.length < n.toNat ∧ s.env.stream.ends = true ∧
          ∃ u, u = passPayload s.env.stream.bytes (consume s.env.stream.bytes.length s) ∧
            t = setResult (.read s.env.stream.bytes)
              (enterState .dispatching { u with rx := { u.rx with short := true } })) ∨
        (s.env.stream.bytes.length < n.toNat ∧ s.env.stream.ends = false ∧
          t = passPayload s.env.stream.bytes (consume s.env.stream.bytes.length s))) := by
  rw [execReadExact] at h
  by_cases hs : s.rx.state = .readingPayload ∧ s.rx.payRem = n
  · rw [if_pos hs] at h
    refine .inr ⟨hs.1, hs.2, ?_⟩
    by_cases hl : n.toNat ≤ s.env.stream.bytes.length
    · have hg : (s.env.stream.bytes.take n.toNat).length = n.toNat := by simpa using hl
      simp only [hg, if_true] at h
      exact .inl ⟨hl, by simpa using h.symm⟩
    · have hg : s.env.stream.bytes.take n.toNat = s.env.stream.bytes := List.take_of_length_le (by omega)
      have hn : ¬ s.env.stream.bytes.length = n.toNat := by omega
      simp only [hg, hn, if_false] at h
      cases he : s.env.stream.ends with
      | true =>
        simp only [he, if_true] at h
        exact .inr (.inl ⟨by omega, rfl, _, rfl, by simpa using h.symm⟩)
      | false =>
        simp only [he] at h
        exact .inr (.inr ⟨by omega, rfl, by simpa using h.symm⟩)
  · rw [if_neg hs] at h
    exact .inl (by simpa using h.symm)

/-! ## The sequencer (R166 to R182) -/

theorem execOpen_next (h : execOpen s = .next t) :
    t = s ∨ s.rx.state = .terminated ∧
      t = { s with
        rx := { (clearFrame s).rx with termCause := .none, state := .awaitingHeader }
        env := { s.env with rxPos := 0 } } := by
  rw [execOpen] at h
  split at h
  · exact .inr ⟨‹_›, by simpa using h.symm⟩
  · exact .inl (by simpa using h.symm)

theorem execRecvHeader_next {e : StreamEvent} (h : execRecvHeader e s = .next t) :
    t = s ∨ s.rx.state = .awaitingHeader ∧
      ((∃ b, e = .byte b ∧ s.rx.hdrCnt ≠ 14 ∧ deliversByte b s = true ∧ t = collectHeaderByte b (consume 1 s)) ∨
        (e = .eos ∧ s.rx.hdrCnt = 0 ∧ endOfData s = true ∧ t = terminate .peerClosed s) ∨
        (e = .eos ∧ s.rx.hdrCnt ≠ 0 ∧ s.rx.hdrCnt ≠ 14 ∧ endOfData s = true ∧ t = raiseFraming .malformedHeader s)) := by
  unfold execRecvHeader at h
  split at h
  · rename_i hs
    split at h
    · simp at h
    · rename_i hc
      cases e with
      | byte b =>
        dsimp only at h
        split at h
        · exact .inr ⟨hs, .inl ⟨b, rfl, hc, ‹_›, by simpa using h.symm⟩⟩
        · exact .inl (by simpa using h.symm)
      | eos =>
        dsimp only at h
        split at h
        next he =>
          split at h
          · exact .inr ⟨hs, .inr (.inl ⟨rfl, ‹_›, he, by simpa using h.symm⟩)⟩
          · exact .inr ⟨hs, .inr (.inr ⟨rfl, ‹_›, hc, he, by simpa using h.symm⟩)⟩
        next => exact .inl (by simpa using h.symm)
  · exact .inl (by simpa using h.symm)

theorem execValidate_next (h : execValidate s = .next t) :
    t = s ∨ s.rx.state = .validating ∧
      ((checksumRight (Memory.bytes s.rx.hdrBuf) = true ∧
          t = loadFields (headerOfBytes (Memory.bytes s.rx.hdrBuf)) s) ∨
        (checksumRight (Memory.bytes s.rx.hdrBuf) = false ∧ t = raiseFraming .checksumError s)) := by
  rw [execValidate] at h
  split at h
  · rename_i hs
    refine .inr ⟨hs, ?_⟩
    cases hc : checksumRight (Memory.bytes s.rx.hdrBuf) with
    | true =>
      rw [decodeHeader_right (Memory.bytes_length _) hc] at h
      exact .inl ⟨rfl, by simpa using h.symm⟩
    | false =>
      rw [decodeHeader_wrong (Memory.bytes_length _) hc] at h
      exact .inr ⟨rfl, by simpa using h.symm⟩
  · exact .inl (by simpa using h.symm)

theorem execDispatch_next (h : execDispatch s = .next t) :
    t = s ∨ s.rx.state = .dispatching ∧ t = startResponse (.ofClass (classOf s.rx.x)) s := by
  rw [execDispatch] at h
  split at h
  · exact .inr ⟨‹_›, by simpa using h.symm⟩
  · exact .inl (by simpa using h.symm)

theorem execRespond_next (h : execRespond s = .next t) :
    t = s ∨ s.rx.state = .responding ∧ s.rx.respIdx.toNat < respLen s.rx.respCode s.rx.x.payloadSize ∧
      t = pushResponse s := by
  rw [execRespond] at h
  split at h
  · split at h
    · exact .inr ⟨‹_›, ‹_›, by simpa using h.symm⟩
    · split at h
      · exact .inl (by simpa using h.symm)
      · simp at h
  · exact .inl (by simpa using h.symm)

theorem execNext_next (h : execNext s = .next t) :
    t = s ∨ s.rx.state = .responding ∧ s.rx.respIdx.toNat = respLen s.rx.respCode s.rx.x.payloadSize ∧
      s.rx.respCode ≠ .none ∧ t = nextArm s := by
  rw [execNext] at h
  split at h
  · split at h
    · exact .inl (by simpa using h.symm)
    · split at h
      next hc => exact .inr ⟨‹_›, hc.1, hc.2, by simpa using h.symm⟩
      next => simp at h
  · exact .inl (by simpa using h.symm)

/-- NEXT's arms (R180 to R182). -/
theorem nextArm_cases (s : State) :
    (∃ c, (c = .errMalformed ∧ s.rx.respCode = .errMalformed ∨ c = .errChecksum ∧ s.rx.respCode = .errChecksum ∨
        c = .fin ∧ s.rx.respCode ≠ .errMalformed ∧ s.rx.respCode ≠ .errChecksum ∧ s.rx.x.finFlag = 1) ∧
        nextArm s = terminate c s) ∨
      s.rx.respCode ≠ .errMalformed ∧ s.rx.respCode ≠ .errChecksum ∧ s.rx.x.finFlag ≠ 1 ∧
        nextArm s = enterState .awaitingHeader (clearFrame s) := by
  by_cases h1 : s.rx.respCode = .errMalformed
  · exact .inl ⟨_, .inl ⟨rfl, h1⟩, by simp [nextArm, h1]⟩
  · by_cases h2 : s.rx.respCode = .errChecksum
    · exact .inl ⟨_, .inr (.inl ⟨rfl, h2⟩), by simp [nextArm, h2]⟩
    · by_cases h3 : s.rx.x.finFlag = 1#8
      · exact .inl ⟨_, .inr (.inr ⟨rfl, h1, h2, h3⟩), by simp [nextArm, h1, h2, h3, isSet]⟩
      · exact .inr ⟨h1, h2, h3, by simp [nextArm, h1, h2, h3, isSet]⟩

/-! ## The header rows (R202 to R205, R102, R103) -/

theorem runClass_next {c : FrameClass} {h : Header} (hr : runClass c h s = .next t) :
    t = s ∨ s.rx.state = .dispatching ∧ s.rx.x = h ∧ classOf h = c ∧ t = startResponse (.ofClass c) s := by
  rw [runClass] at hr
  split at hr
  next hc => exact .inr ⟨hc.1, hc.2.1, hc.2.2, by simpa using hr.symm⟩
  next => exact .inl (by simpa using hr.symm)

theorem execBadsum_next {h : Header} (hr : execBadsum h s = .next t) :
    t = s ∨ s.rx.state = .validating ∧ Memory.bytes s.rx.hdrBuf = headerBytes h ∧
      checksumRight (headerBytes h) = false ∧ t = raiseFraming .checksumError s := by
  rw [execBadsum] at hr
  split at hr
  next hc => exact .inr ⟨hc.1, hc.2.1, hc.2.2, by simpa using hr.symm⟩
  next => exact .inl (by simpa using hr.symm)

theorem execShorthdr_next {bs : List Byte} (hr : execShorthdr bs s = .next t) :
    t = s ∨ s.rx.state = .awaitingHeader ∧ s.rx.hdrCnt.val = bs.length ∧ 1 ≤ bs.length ∧ bs.length ≤ 13 ∧
      (Memory.bytes s.rx.hdrBuf).take bs.length = bs ∧ endOfData s = true ∧ t = raiseFraming .malformedHeader s := by
  rw [execShorthdr] at hr
  split at hr
  next hc => exact .inr ⟨hc.1, hc.2.1, hc.2.2.1, hc.2.2.2.1, hc.2.2.2.2.1, hc.2.2.2.2.2, by simpa using hr.symm⟩
  next => exact .inl (by simpa using hr.symm)

/-! ## The error path, ABORT and RESET (R235, R229, R260) -/

theorem execErrorPath_next {e : FramingError} (hr : execErrorPath e s = .next t) :
    t = s ∨ t = raiseFraming e s ∧
      ((e = .malformedHeader ∧ s.rx.state = .awaitingHeader ∧ s.rx.hdrCnt ≠ 0 ∧ s.rx.hdrCnt ≠ 14 ∧ endOfData s = true) ∨
        (e = .checksumError ∧ s.rx.state = .validating ∧ checksumRight (Memory.bytes s.rx.hdrBuf) = false)) := by
  cases e <;> simp only [execErrorPath] at hr <;> split at hr
  next hc => exact .inr ⟨by simpa using hr.symm, .inl ⟨rfl, hc⟩⟩
  next => exact .inl (by simpa using hr.symm)
  next hc => exact .inr ⟨by simpa using hr.symm, .inr ⟨rfl, hc⟩⟩
  next => exact .inl (by simpa using hr.symm)

theorem execAbort_next (hr : execAbort s = .next t) :
    t = s ∨ s.rx.state ≠ .terminated ∧ t = terminate .fault s := by
  rw [execAbort] at hr
  split at hr
  · exact .inl (by simpa using hr.symm)
  · exact .inr ⟨‹_›, by simpa using hr.symm⟩

theorem execReset_next (hr : execReset s = .next t) : t = resetUnits s := by
  simpa [execReset] using hr.symm

end Sys2Proof.Machine
end

