-- ==== Sys2Proof/Laws/PerInstr.lean ====
section
/-! SUPPORT. One lemma per row of the table: a well-formed instruction's word is no longer than the longest layout, H14's
14 bytes (spec 30_encoding.md R90, R91, R103, R112). -/

namespace Sys2Proof.Laws.Width

open Sys2Proof.Machine

/-- The encoded word of a well-formed instruction has at most 14 operand bytes. -/
def Statement (i : Instr) : Prop :=
  wellFormed i = true → (Sys2Proof.encode i).bytes.length ≤ 14

theorem syn (h : Header) : Statement (.syn h) :=
  fun _ => (headerBytes_length h).le

theorem ack (h : Header) : Statement (.ack h) :=
  fun _ => (headerBytes_length h).le

theorem fin (h : Header) : Statement (.fin h) :=
  fun _ => (headerBytes_length h).le

theorem data (h : Header) : Statement (.data h) :=
  fun _ => (headerBytes_length h).le

theorem badsum (h : Header) : Statement (.badsum h) :=
  fun _ => (headerBytes_length h).le

theorem shorthdr (bs : List Byte) : Statement (.shorthdr bs) := by
  intro h
  simp only [wellFormed, Bool.and_eq_true, decide_eq_true_eq] at h
  exact h.2.trans (by decide)

theorem checksum (bs : List Byte) : Statement (.checksum bs) := by
  intro h
  simp only [wellFormed, beq_iff_eq] at h
  exact h.le.trans (by decide)

theorem encode (t : IntTuple) : Statement (.encode t) :=
  fun _ => (fieldBytes_length (narrow t)).le.trans (by decide)

theorem decode (bs : List Byte) : Statement (.decode bs) := by
  intro h
  exact of_decide_eq_true h

theorem readExact (n : Half) : Statement (.readExact n) :=
  fun _ => (spell_length 2 n.toNat).le.trans (by decide)

theorem encCmd (f : FieldTuple) : Statement (.encCmd f) :=
  fun _ => (fieldBytes_length f).le.trans (by decide)

theorem encByte : Statement (.encByte) :=
  fun _ => by decide

theorem openSession : Statement (.openSession) :=
  fun _ => by decide

theorem recvHeader (e : StreamEvent) : Statement (.recvHeader e) := by
  cases e <;> exact fun _ => Nat.le_of_ble_eq_true rfl

theorem validate : Statement (.validate) :=
  fun _ => by decide

theorem readPayload (e : PayloadEvent) : Statement (.readPayload e) := by
  cases e <;> exact fun _ => Nat.le_of_ble_eq_true rfl

theorem dispatch : Statement (.dispatch) :=
  fun _ => by decide

theorem respond : Statement (.respond) :=
  fun _ => by decide

theorem next : Statement (.next) :=
  fun _ => by decide

theorem errorPath (e : FramingError) : Statement (.errorPath e) := by
  cases e <;> exact fun _ => Nat.le_of_ble_eq_true rfl

theorem abort : Statement (.abort) :=
  fun _ => by decide

theorem reset : Statement (.reset) :=
  fun _ => by decide

end Sys2Proof.Laws.Width
end

