-- ==== Sys2Proof/Laws/Step.lean ====
section
/-! SUPPORT. What a clock edge and a step are made of (spec 10_state.md R50): later proofs cite these and unfold neither. -/

namespace Sys2Proof.Machine

variable {s : State}

/-- An edge without rst: RX's operation, then ENC's, both chosen from the state before it. -/
theorem clockEdge_running (h : s.env.pins.rst = false) :
    clockEdge s = thenRun (execIf (rxOperation s) s) (execIf (encOperation s)) := by
  simp [clockEdge, h]

/-- An edge with rst high. -/
theorem clockEdge_reset (h : s.env.pins.rst = true) : clockEdge s = .next (resetUnits s) := by
  simp [clockEdge, h, exec, execReset]

/-- With no move left, a step is an edge. -/
theorem step_idle (h : s.env.moves = []) : step s = clockEdge s := by
  simp [step, h]

@[simp] theorem thenRun_next (t : State) (f : State → Host.Outcome State Fault Refusal) :
    thenRun (.next t) f = f t := rfl

theorem execAll_append (l m : List Instr) (s : State) :
    execAll (l ++ m) s = thenRun (execAll l s) (execAll m) := by
  induction l generalizing s with
  | nil => rfl
  | cons i l ih =>
    simp only [List.cons_append, execAll]
    cases exec i s <;> simp [thenRun, ih]

/-- What ENC does at an edge is one of its two operations. -/
theorem encOperation_cases (s : State) :
    encOperation s = none ∨ ∃ j, encOperation s = some j ∧ ((∃ f, j = .encCmd f) ∨ j = .encByte) := by
  simp only [encOperation]
  split_ifs <;> simp

end Sys2Proof.Machine
end

