-- ==== Sys2Proof/Tests/Slice0.lean ====
section
/-! SUPPORT. Tests: the checks of WellFormed on ill-formed terms, words written out from the spec's encodings, one step of
each row with its expected result from spec 95_test_vectors.md, and for each obligation with hypotheses a state and
operands that meet them. -/

namespace Sys2Proof.Tests

open Sys2Proof.Machine

/-! ## Small states -/

/-- The next state, if there is one. -/
def after (r : Host.Outcome State Fault Refusal) : Option State :=
  match r with
  | .next s => some s
  | .fault _ => none
  | .refused _ => none

/-- H6 of 95_test_vectors.md 2.7 (V-E6). -/
def h6Bytes : List Byte := [0x04, 0xD2, 0x13, 0x88, 0, 0, 0, 4, 0, 0, 0, 0, 5, 0x7A]

def h6 : Header := ⟨1234, 5000, 4, 0, 0, 0, 5, 0x7A⟩

def bufferOf (bs : List Byte) : Memory := Memory.store [] 0 bs

/-- A state with these RX registers, everything else as at reset. -/
def withRx (r : RxRegs) : State := { State.reset with rx := r }

/-- RX awaiting a header with these bytes collected. -/
def awaiting (bs : List Byte) : State :=
  withRx { RxRegs.reset with state := .awaitingHeader, hdrBuf := bufferOf bs, hdrCnt := Fin.ofNat 15 bs.length }

/-- RX validating these bytes. -/
def validating (bs : List Byte) : State :=
  withRx { RxRegs.reset with state := .validating, hdrBuf := bufferOf bs, hdrCnt := 14 }

/-- RX reading H6's payload. -/
def reading (rem cnt : Half) : State :=
  withRx { RxRegs.reset with
    state := .readingPayload, hdrBuf := bufferOf h6Bytes, hdrCnt := 14, hdrValid := true, payRem := rem
    payCnt := cnt, x := h6 }

/-- RX dispatching a header. -/
def dispatching (h : Header) : State :=
  withRx { RxRegs.reset with
    state := .dispatching, hdrBuf := bufferOf (headerBytes h), hdrCnt := 14, hdrValid := true
    payCnt := h.payloadSize, x := h }

/-- RX sending a response. -/
def responding (c : RespCode) (i : BitVec 8) (h : Header) : State :=
  withRx { RxRegs.reset with state := .responding, respCode := c, respIdx := i, x := h }

/-- A state with this stream bound. -/
def onStream (d : Stream) (s : State) : State := { s with env := { s.env with stream := d } }

/-- A state whose stream has ended: end-of-data. -/
def atEnd (s : State) : State := onStream ⟨[], true⟩ s

/-- A state with these pin levels. -/
def onPins (p : Pins) (s : State) : State := { s with env := { s.env with pins := p } }

/-- ENC holding the header of V-N1 with this TX_IDX. -/
def sending (i : Fin 15) : State :=
  { State.reset with
    enc := { txBuf := bufferOf [0x04, 0xD2, 0x13, 0x88, 0, 0, 0, 1, 0, 1, 0, 0, 0, 0x73], txIdx := i } }

/-! ## WellFormed refuses ill-formed terms -/

theorem test_syn_needs_its_flag : wellFormed (.syn h6) = false := by decide
theorem test_ack_with_syn_is_not_ack : wellFormed (.ack ⟨1234, 5000, 7, 1, 1, 1, 0, 0x7B⟩) = false := by decide
theorem test_fin_byte_two_is_not_fin : wellFormed (.fin ⟨5000, 1234, 10, 0, 0, 2, 0, 0x7D⟩) = false := by decide
theorem test_data_needs_right_checksum : wellFormed (.data ⟨1234, 5000, 4, 0, 0, 0, 5, 0x7B⟩) = false := by decide
theorem test_badsum_needs_wrong_checksum : wellFormed (.badsum h6) = false := by decide
theorem test_shorthdr_needs_a_byte : wellFormed (.shorthdr []) = false := by decide
theorem test_shorthdr_has_at_most_thirteen : wellFormed (.shorthdr h6Bytes) = false := by decide
theorem test_checksum_needs_thirteen : wellFormed (.checksum h6Bytes) = false := by decide
theorem test_encode_refuses_two_to_the_32 :
    wellFormed (.encode ⟨1234, 5000, 4294967296, 0, 0, 0, 0⟩) = false := by decide
theorem test_decode_has_at_most_fourteen : wellFormed (.decode (0 :: h6Bytes)) = false := by decide

/-! ## Words written out from the encodings (30_encoding.md R90, R100 to R103; 95_test_vectors.md 2.2, 2.3) -/

/-- V-E3. -/
theorem test_decode_syn :
    decode ⟨.header, [0x04, 0xD2, 0x13, 0x88, 0, 0, 0, 1, 0, 1, 0, 0, 0, 0x73]⟩ =
      .instr (.syn ⟨1234, 5000, 1, 0, 1, 0, 0, 0x73⟩) := by decide
/-- V-E19: ACK with FIN is ACK. -/
theorem test_decode_ack_with_fin :
    decode ⟨.header, [0x04, 0xD2, 0x13, 0x88, 0, 0, 0, 0x0C, 1, 0, 1, 0, 0, 0x7F]⟩ =
      .instr (.ack ⟨1234, 5000, 12, 1, 0, 1, 0, 0x7F⟩) := by decide
/-- V-E12: ack byte 2 is not set, so FIN. -/
theorem test_decode_fin_ack_byte_two :
    decode ⟨.header, [0x04, 0xD2, 0x13, 0x88, 0, 0, 0, 8, 2, 0, 1, 0, 3, 0x7F]⟩ =
      .instr (.fin ⟨1234, 5000, 8, 2, 0, 1, 3, 0x7F⟩) := by decide
/-- V-E8: byte order, and DATA. -/
theorem test_decode_data :
    decode ⟨.header, [0x04, 0xD2, 0x13, 0x88, 1, 2, 3, 4, 0, 0, 0, 1, 2, 0x7E]⟩ =
      .instr (.data ⟨1234, 5000, 16909060, 0, 0, 0, 258, 0x7E⟩) := by decide
/-- V-D2. -/
theorem test_decode_badsum :
    decode ⟨.header, [0x04, 0xD2, 0x13, 0x88, 0, 0, 0, 4, 0, 0, 0, 0, 5, 0x7B]⟩ =
      .instr (.badsum ⟨1234, 5000, 4, 0, 0, 0, 5, 0x7B⟩) := by decide
/-- V-D4. -/
theorem test_decode_shorthdr :
    decode ⟨.header, [0x04, 0xD2, 0x13, 0x88, 0, 0, 0, 4, 0, 0, 0, 0, 5]⟩ =
      .instr (.shorthdr [0x04, 0xD2, 0x13, 0x88, 0, 0, 0, 4, 0, 0, 0, 0, 5]) := by decide
/-- No bytes at all are no header (R103). -/
theorem test_decode_empty_header : decode ⟨.header, []⟩ = .reject .noHeaderBytes := by decide
/-- V-D16. -/
theorem test_decode_long_header : decode ⟨.header, 0 :: h6Bytes⟩ = .reject (.headerTooLong 15) := by decide
/-- V-E13's fields on the enc_* port. -/
theorem test_decode_enc_cmd :
    decode ⟨.encPort, [0x9C, 0x40, 0x13, 0x88, 0x12, 0x34, 0x56, 0x78, 1, 0, 0, 1, 0x2C]⟩ =
      .instr (.encCmd ⟨40000, 5000, 305419896, 1, 0, 0, 300⟩) := by decide
/-- V-E13's fields as integers. -/
theorem test_decode_encode :
    decode ⟨.encodeFunction, [0x9C, 0x40, 0x13, 0x88, 0x12, 0x34, 0x56, 0x78, 1, 0, 0, 1, 0x2C]⟩ =
      .instr (.encode ⟨40000, 5000, 305419896, 1, 0, 0, 300⟩) := by decide
theorem test_decode_read_exact : decode ⟨.readExactFunction, [0x01, 0x2C]⟩ = .instr (.readExact 300) := by decide
theorem test_decode_recv_header_byte :
    decode ⟨.awaitingHeader, [0x55]⟩ = .instr (.recvHeader (.byte 0x55)) := by decide
theorem test_decode_read_payload_eos : decode ⟨.readingPayload, []⟩ = .instr (.readPayload .eos) := by decide
theorem test_decode_reset : decode ⟨.rstPin, []⟩ = .instr .reset := by decide
theorem test_decode_open_takes_no_operand : decode ⟨.openPin, [1]⟩ = .reject (.operandLength .openPin 1) := by decide
/-- A table word: H[111:0] with byte 0 uppermost (00_scope.md R10). -/
theorem test_table_word_syn :
    decodeTableWord 112 0x04D2138800000001000100000073 =
      some (.syn ⟨1234, 5000, 1, 0, 1, 0, 0, 0x73⟩) := by decide

/-! ## One step of each row -/

/-- V-S15: all three flags, so SYN. -/
theorem test_syn_row :
    (after (exec (.syn ⟨1234, 5000, 7, 1, 1, 1, 0, 0x7B⟩) (dispatching ⟨1234, 5000, 7, 1, 1, 1, 0, 0x7B⟩))).map
      (fun t => (t.rx.respCode, t.rx.respIdx, t.rx.state)) = some (.syn, 0, .responding) := by decide
/-- V-K15: syn byte 2 is not set, so ACK. -/
theorem test_ack_row :
    (after (exec (.ack ⟨1, 1, 1, 1, 2, 0, 0, 6⟩) (dispatching ⟨1, 1, 1, 1, 2, 0, 0, 6⟩))).map (fun t => t.rx.respCode) =
      some .ack := by decide
/-- V-K14. -/
theorem test_fin_row :
    (after (exec (.fin ⟨1, 1, 1, 2, 0, 1, 0, 6⟩) (dispatching ⟨1, 1, 1, 2, 0, 1, 0, 6⟩))).map (fun t => t.rx.respCode) =
      some .fin := by decide
/-- V-K13: flag bytes 255 are not set, so DATA. -/
theorem test_data_row :
    (after (exec (.data ⟨1, 1, 1, 255, 255, 255, 0, 0⟩) (dispatching ⟨1, 1, 1, 255, 255, 255, 0, 0⟩))).map
      (fun t => t.rx.respCode) = some .data := by decide
/-- V-S9: ChecksumError; the field registers stay zero. -/
theorem test_badsum_row :
    (after (exec (.badsum ⟨1234, 5000, 4, 0, 0, 0, 5, 0x7B⟩) (validating (h6Bytes.set 13 0x7B)))).map
      (fun t => (t.rx.respCode, t.rx.state, t.rx.x, t.rx.hdrValid)) =
      some (.errChecksum, .responding, zeroHeader, false) := by decide
/-- V-S6. -/
theorem test_shorthdr_row :
    (after (exec (.shorthdr (h6Bytes.take 10)) (atEnd (awaiting (h6Bytes.take 10))))).map
      (fun t => (t.rx.respCode, t.rx.state, t.rx.hdrCnt)) = some (.errMalformed, .responding, 10) := by decide
/-- V-C2. -/
theorem test_checksum_of_all_ones :
    (after (exec (.checksum (List.replicate 13 0xFF)) State.reset)).map (fun t => t.env.result) =
      some (.checksum 0xF3) := by decide
/-- V-C4: the carry is dropped. -/
theorem test_checksum_wraps :
    (after (exec (.checksum [0x80, 0x80, 0, 0, 0, 0, 0, 0, 0, 0, 0, 0, 0]) State.reset)).map (fun t => t.env.result) =
      some (.checksum 0) := by decide
/-- V-E8: byte order. -/
theorem test_encode_byte_order :
    (after (exec (.encode ⟨1234, 5000, 16909060, 0, 0, 0, 258⟩) State.reset)).map (fun t => t.env.result) =
      some (.encode (.header [0x04, 0xD2, 0x13, 0x88, 1, 2, 3, 4, 0, 0, 0, 1, 2, 0x7E])) := by decide
/-- V-E22: a negative value in field 1. -/
theorem test_encode_refuses_negative :
    (after (exec (.encode ⟨1234, -1, 1, 0, 0, 0, 0⟩) State.reset)).map (fun t => t.env.result) =
      some (.encode (.encodingError 1)) := by decide
/-- V-D14. -/
theorem test_decode_row :
    (after (exec (.decode [0x9C, 0x40, 0x13, 0x88, 0x12, 0x34, 0x56, 0x78, 1, 0, 0, 1, 0x2C, 0xB9]) State.reset)).map
      (fun t => t.env.result) =
      some (.decode (.fields ⟨40000, 5000, 305419896, 1, 0, 0, 300, 0xB9⟩)) := by decide
/-- V-D4: the length comes before the checksum. -/
theorem test_decode_row_short :
    (after (exec (.decode (h6Bytes.take 13)) State.reset)).map (fun t => t.env.result) =
      some (.decode (.malformedHeader 13)) := by decide
/-- V-R1: exactly n bytes, no over-read. -/
theorem test_read_exact_whole :
    (after (exec (.readExact 5) (onStream ⟨[0x68, 0x65, 0x6C, 0x6C, 0x6F, 0x04, 0xD2], false⟩ (reading 5 0)))).map
      (fun t => (t.env.payOut, t.env.stream.bytes, t.rx.short, t.rx.payRem, t.rx.payCnt, t.rx.state)) =
      some ([0x68, 0x65, 0x6C, 0x6C, 0x6F], [0x04, 0xD2], false, 0, 5, .dispatching) := by decide
/-- V-R6: a silent stream; RX stalls with what it has. -/
theorem test_read_exact_blocks :
    (after (exec (.readExact 5) (onStream ⟨[0x68, 0x65], false⟩ (reading 5 0)))).map
      (fun t => (t.rx.short, t.rx.payRem, t.rx.payCnt, t.rx.state)) = some (false, 3, 2, .readingPayload) := by decide
/-- V-N1. -/
theorem test_enc_cmd_loads :
    (after (exec (.encCmd ⟨1234, 5000, 1, 0, 1, 0, 0⟩) State.reset)).map
      (fun t => (Memory.bytes t.enc.txBuf, t.enc.txIdx, txData t, txLast t, encReady t)) =
      some ([0x04, 0xD2, 0x13, 0x88, 0, 0, 0, 1, 0, 1, 0, 0, 0, 0x73], 0, 0x04, false, false) := by decide
/-- V-N4: the command waits. -/
theorem test_enc_cmd_waits :
    after (exec (.encCmd ⟨0, 0, 0, 0, 0, 0, 0⟩) (sending 5)) = some (sending 5) := by decide
/-- V-N3: the last byte. -/
theorem test_enc_byte_last :
    (after (exec .encByte (sending 13))).map (fun t => (t.env.txOut, t.enc.txIdx, txValid t, txData t)) =
      some ([⟨0x73, true⟩], 14, false, 0) := by decide
/-- V-S2: the last session leaves no trace. -/
theorem test_open_clears :
    (after (exec .openSession (withRx { (dispatching ⟨1234, 5000, 3, 0, 0, 1, 0, 0x75⟩).rx with
        state := .terminated, termCause := .fin, respCode := .fin, respIdx := 35 }))).map
      (fun t => t.rx) = some { RxRegs.reset with state := .awaitingHeader } := by decide
/-- V-S4: the fourteenth byte. -/
theorem test_recv_header_last_byte :
    (after (exec (.recvHeader (.byte 0x7A)) (onStream ⟨[0x7A], false⟩ (awaiting (h6Bytes.take 13))))).map
      (fun t => (Memory.bytes t.rx.hdrBuf, t.rx.hdrCnt, t.rx.state, inReady t)) =
      some (h6Bytes, 14, .validating, false) := by decide
/-- 42_session_sequencer.md R167: a fifteenth byte has no meaning, so it is refused (00_scope.md R14). -/
theorem test_recv_header_takes_no_fifteenth_byte :
    exec (.recvHeader (.byte 0)) (awaiting h6Bytes) = .refused .neverTaken := rfl
/-- 00_scope.md R12: InByte is the stream's next byte, and no other. -/
theorem test_recv_header_takes_the_next_byte_only :
    after (exec (.recvHeader (.byte 0x7B)) (onStream ⟨[0x7A], false⟩ (awaiting (h6Bytes.take 13)))) =
      some (onStream ⟨[0x7A], false⟩ (awaiting (h6Bytes.take 13))) := by decide
/-- V-S5. -/
theorem test_recv_header_peer_closed :
    (after (exec (.recvHeader .eos) (atEnd (awaiting [])))).map (fun t => (t.rx.state, t.rx.termCause, t.env.respOut)) =
      some (.terminated, .peerClosed, []) := by decide
/-- V-S8. -/
theorem test_validate_loads :
    (after (exec .validate (validating h6Bytes))).map
      (fun t => (t.rx.x, t.rx.hdrValid, t.rx.payRem, t.rx.payCnt, t.rx.state)) =
      some (h6, true, 5, 0, .readingPayload) := by decide
/-- V-D3: payload_size changed, checksum kept. -/
theorem test_validate_raises :
    (after (exec .validate (validating (h6Bytes.set 12 4)))).map (fun t => (t.rx.x, t.rx.respCode, t.rx.state)) =
      some (zeroHeader, .errChecksum, .responding) := by decide
/-- V-S11: STATE stays when PAY_REM becomes 0. -/
theorem test_read_payload_last_byte :
    (after (exec (.readPayload (.byte 0x6F)) (onStream ⟨[0x6F], true⟩ (reading 1 4)))).map
      (fun t => (t.env.payOut, t.rx.payRem, t.rx.payCnt, t.rx.state)) = some ([0x6F], 0, 5, .readingPayload) := by decide
/-- V-S14's shape: short. -/
theorem test_read_payload_short :
    (after (exec (.readPayload .eos) (atEnd (reading 3 2)))).map
      (fun t => (t.rx.short, t.rx.payRem, t.rx.payCnt, t.rx.state)) = some (true, 3, 2, .dispatching) := by decide
/-- V-S16: syn byte 2 is not set. -/
theorem test_dispatch_flag_byte_two :
    (after (exec .dispatch (dispatching ⟨1234, 5000, 9, 0, 2, 0, 0, 0x7C⟩))).map (fun t => t.rx.respCode) =
      some .data := by decide
/-- V-T2, V-T3, V-T16, and V-T15's digits: the response texts, byte by byte. -/
theorem test_response_texts :
    respBytes .ack 0 =
      [0x41, 0x43, 0x4B, 0x20, 0x72, 0x65, 0x63, 0x65, 0x69, 0x76, 0x65, 0x64, 0x20, 0xE2, 0x80, 0x93, 0x20, 0x6D,
        0x65, 0x73, 0x73, 0x61, 0x67, 0x65, 0x20, 0x61, 0x63, 0x6B, 0x6E, 0x6F, 0x77, 0x6C, 0x65, 0x64, 0x67,
        0x65, 0x64] ∧
    respBytes .fin 0 =
      [0x46, 0x49, 0x4E, 0x20, 0x72, 0x65, 0x63, 0x65, 0x69, 0x76, 0x65, 0x64, 0x20, 0xE2, 0x80, 0x93, 0x20, 0x63,
        0x6F, 0x6E, 0x6E, 0x65, 0x63, 0x74, 0x69, 0x6F, 0x6E, 0x20, 0x63, 0x6C, 0x6F, 0x73, 0x69, 0x6E, 0x67] ∧
    respBytes .errMalformed 0 =
      [0x45, 0x72, 0x72, 0x6F, 0x72, 0x3A, 0x20, 0x49, 0x6E, 0x63, 0x6F, 0x6D, 0x70, 0x6C, 0x65, 0x74, 0x65, 0x20,
        0x68, 0x65, 0x61, 0x64, 0x65, 0x72, 0x20, 0x72, 0x65, 0x63, 0x65, 0x69, 0x76, 0x65, 0x64] ∧
    (respBytes .data 65535).drop 34 = [0x36, 0x35, 0x35, 0x33, 0x35] := by decide
/-- V-S18. -/
theorem test_respond_last_byte :
    (after (exec .respond (responding .syn 36 h6))).map (fun t => (t.env.respOut, t.rx.respIdx, t.rx.state)) =
      some ([⟨0x64, true⟩], 37, .responding) := by decide
/-- V-S19. -/
theorem test_respond_digit :
    (after (exec .respond (responding .data 34 ⟨1234, 5000, 5, 0, 0, 0, 100, 0xDA⟩))).map
      (fun t => (t.env.respOut, t.rx.respIdx)) = some ([⟨0x31, false⟩], 35) := by decide
/-- V-S22: a SYN frame with fin byte 1 ends the session. -/
theorem test_next_fin :
    (after (exec .next (responding .syn 37 ⟨1234, 5000, 6, 0, 1, 1, 0, 0x79⟩))).map
      (fun t => (t.rx.state, t.rx.termCause, t.rx.respCode, t.rx.x.finFlag)) =
      some (.terminated, .fin, .syn, 1) := by decide
/-- V-S23: fin byte 2 does not. -/
theorem test_next_continues :
    (after (exec .next (responding .data 35 ⟨5000, 1234, 10, 0, 0, 2, 0, 0x7D⟩))).map (fun t => t.rx) =
      some { RxRegs.reset with state := .awaitingHeader } := by decide
/-- V-S7. -/
theorem test_error_path :
    (after (exec (.errorPath .malformedHeader) (atEnd (awaiting (h6Bytes.take 13))))).map
      (fun t => (t.rx.respCode, t.rx.respIdx, t.rx.state)) = some (.errMalformed, 0, .responding) := by decide
/-- V-A5: the cause is FAULT whatever is being sent. -/
theorem test_abort_in_an_error_response :
    (after (exec .abort (responding .errChecksum 3 zeroHeader))).map
      (fun t => (t.rx.state, t.rx.termCause, t.rx.respCode, t.rx.respIdx)) =
      some (.terminated, .fault, .errChecksum, 3) := by decide
/-- V-A3. -/
theorem test_abort_when_closed :
    after (exec .abort (withRx { RxRegs.reset with termCause := .fin })) =
      some (withRx { RxRegs.reset with termCause := .fin }) := by decide
/-- V-Z1. -/
theorem test_reset_row :
    (after (exec .reset { sending 6 with rx := (responding .syn 10 h6).rx })).map (fun t => (t.rx, t.enc)) =
      some (RxRegs.reset, EncRegs.reset) := by decide

/-! ## Clock edges -/

/-- V-A2: the response byte of an abort edge is not sent. -/
theorem test_edge_abort_before_respond :
    (after (clockEdge (onPins { Pins.low with abort := true, respReady := true } (responding .syn 10 h6)))).map
      (fun t => (t.rx.state, t.rx.termCause, t.rx.respIdx, t.env.respOut)) =
      some (.terminated, .fault, 10, []) := by decide
/-- V-P5: end-of-data does not wait for pay_ready. -/
theorem test_edge_eos_without_pay_ready :
    (after (clockEdge (onPins { Pins.low with inEos := true } (reading 4 1)))).map
      (fun t => (t.rx.short, t.rx.state)) = some (true, .dispatching) := by decide
/-- V-P6: both units step at one edge. -/
theorem test_edge_both_units :
    (after (clockEdge (onPins
        { Pins.low with inValid := true, payReady := true, encValid := true, enc := ⟨1234, 5000, 1, 0, 1, 0, 0⟩ }
        (onStream ⟨[0x68], false⟩ (reading 5 0))))).map
      (fun t => (t.env.payOut, t.rx.payRem, t.enc.txIdx)) = some ([0x68], 4, 0) := by decide

/-! ## For each obligation with hypotheses, something that meets them, at the ends of each clause's range -/

/-- V-E1 and V-E2 as integers, the ends of every field's range. -/
def lowTuple : IntTuple := ⟨0, 0, 0, 0, 0, 0, 0⟩
def highTuple : IntTuple := ⟨65535, 65535, 4294967295, 255, 255, 255, 65535⟩

/-- A header of class SYN (V-E7), ACK (V-E4), FIN (V-E5). -/
def synHeader : Header := ⟨1234, 5000, 7, 1, 1, 1, 0, 0x7B⟩
def ackHeader : Header := ⟨1234, 5000, 2, 1, 0, 0, 0, 0x74⟩
def finHeader : Header := ⟨1234, 5000, 3, 0, 0, 1, 0, 0x75⟩

theorem witness_DecodeInvertsEncode :
    wellFormed (.syn synHeader) = true ∧ wellFormed (.ack ackHeader) = true ∧ wellFormed (.fin finHeader) = true ∧
      wellFormed (.data h6) = true ∧ wellFormed (.badsum { h6 with checksum := 0x7B }) = true ∧
      wellFormed (.shorthdr [4]) = true ∧ wellFormed (.shorthdr (h6Bytes.take 13)) = true ∧
      wellFormed (.checksum (h6Bytes.take 13)) = true ∧ wellFormed (.encode lowTuple) = true ∧
      wellFormed (.encode highTuple) = true ∧ wellFormed (.decode []) = true ∧ wellFormed (.decode h6Bytes) = true ∧
      wellFormed (.readExact 65535) = true ∧ wellFormed .openSession = true := by decide

theorem witness_SingleBitFlipsAreDetected :
    decodeHeader h6Bytes = .fields h6 ∧ 0 < 14 ∧ 0 < 8 ∧ 13 < 14 ∧ 7 < 8 := by decide

/-- V-C6 and V-C7. -/
theorem witness_ChecksumIsAWrappingSum :
    List.Perm ([1, 2, 3, 4, 5, 6, 7, 8, 9, 10, 11, 12, 13] : List Byte) [13, 12, 11, 10, 9, 8, 7, 6, 5, 4, 3, 2, 1] ∧
      0 < (h6Bytes.take 13).length ∧ 12 < (h6Bytes.take 13).length := by decide

theorem witness_EachHeaderHasOneChecksum : (h6Bytes.take 13).length = 13 := by decide

theorem witness_CodecRoundTrip :
    firstMisfit lowTuple = none ∧ firstMisfit highTuple = none ∧ h6Bytes.length = 14 ∧
      checksum (h6Bytes.take 13) = h6Bytes.getD 13 0 ∧ encodeHeader ⟨1234, 5000, 4, 0, 0, 0, 5⟩ = .header h6Bytes := by
  decide

theorem witness_ChecksumRowGivesTheSum :
    (List.replicate 13 (0xFF : Byte)).length = 13 ∧ (List.replicate 12 (0 : Byte)).length ≠ 13 ∧ h6Bytes.length ≠ 13 := by
  decide

theorem witness_EncodeSpellsTheFields :
    65535 < 2 ^ 16 ∧ 4294967295 < 2 ^ 32 ∧ 255 < 2 ^ 8 ∧ 0 < 2 ^ 16 ∧ 0 < 2 ^ 32 ∧ 0 < 2 ^ 8 := by decide

/-- V-E21 (field 0) and V-E26 (field 6, after six fields that fit). -/
theorem witness_EncodeRejectsWhatDoesNotFit :
    (∀ j : Fin 7, j < 0 → False) ∧ ¬ (0 ≤ (65536 : Int) ∧ (65536 : Int) < 2 ^ 16) ∧
      (∀ j : Fin 7, j < 6 → 0 ≤ (([1234, 5000, 1, 0, 0, 0, -1] : List Int).getD j 0) ∧
        (([1234, 5000, 1, 0, 0, 0, -1] : List Int).getD j 0) < (2 : Int) ^ ([16, 16, 32, 8, 8, 8, 16].getD j 0)) ∧
      ¬ (0 ≤ (-1 : Int) ∧ (-1 : Int) < 2 ^ 16) := by decide

/-- V-D5, V-D4, V-D2, V-D1, V-D16. -/
theorem witness_DecodeChecksLengthThenChecksum :
    ([] : List Byte).length < 14 ∧ (h6Bytes.take 13).length < 14 ∧ (h6Bytes.set 13 0x7B).length = 14 ∧
      (((h6Bytes.set 13 0x7B).take 13).map BitVec.toNat).sum % 256 ≠ ((h6Bytes.set 13 0x7B).getD 13 0).toNat ∧
      h6Bytes.length = 14 ∧ ((h6Bytes.take 13).map BitVec.toNat).sum % 256 = (h6Bytes.getD 13 0).toNat ∧
      14 < (0 :: h6Bytes).length := by decide

theorem witness_MemReadIsBigEndian : 13 ≤ 13 ∧ 12 ≤ 12 ∧ 10 ≤ 10 ∧ 0 ≤ 10 := by decide

theorem witness_MemWriteThenMemRead :
    Memory.wf (bufferOf h6Bytes) = true ∧ 10 + 4 ≤ 14 ∧ 4294967295 < 256 ^ 4 ∧ 13 + 1 ≤ 14 ∧ 255 < 256 ^ 1 ∧
      0 + 2 ≤ 14 ∧ 0 < 256 ^ 2 := by decide

theorem witness_EncCmdLoadsTheHeader : State.reset.enc.txIdx = 14 := by decide

theorem witness_EncByteSendsTheNextByte : (sending 0).enc.txIdx.val < 14 ∧ (sending 13).enc.txIdx.val < 14 := by decide

theorem witness_BusyEncHoldsOffCommands :
    (sending 0).enc.txIdx.val < 14 ∧ (sending 13).enc.txIdx.val < 14 ∧ (sending 13).env.pins.txReady = false ∧
      after (exec .encByte (sending 13)) ≠ none ∧ after (exec .openSession State.reset) ≠ none := by decide

theorem witness_EncEmitsTheWholeHeader : State.reset.enc.txIdx = 14 := by decide

theorem witness_OpenStartsFromTheSameState :
    State.reset.rx.state = .terminated ∧ (awaiting []).rx.state ≠ .terminated := by decide

theorem witness_RecvHeaderCollectsAByte :
    (let s := onStream ⟨[4], false⟩ (awaiting []);
      s.rx.state = .awaitingHeader ∧ s.rx.hdrCnt.val = 0 ∧ Memory.wf s.rx.hdrBuf = true ∧ s.env.stream.bytes = [4]) ∧
    (let s := onStream ⟨[0x7A, 1], true⟩ (awaiting (h6Bytes.take 13));
      s.rx.state = .awaitingHeader ∧ s.rx.hdrCnt.val = 13 ∧ Memory.wf s.rx.hdrBuf = true ∧
        s.env.stream.bytes = [0x7A, 1]) := by decide

theorem witness_PeerCloseAtAFrameBoundary :
    let s := atEnd (awaiting [])
    s.rx.state = .awaitingHeader ∧ s.rx.hdrCnt.val = 0 ∧ inValid s = false ∧ inEos s = true := by decide

theorem witness_FramingErrorsEnterTheErrorPath :
    (let s := atEnd (awaiting [4]);
      s.rx.state = .awaitingHeader ∧ s.rx.hdrCnt.val = 1 ∧ inValid s = false ∧ inEos s = true) ∧
    (let s := atEnd (awaiting (h6Bytes.take 13));
      s.rx.state = .awaitingHeader ∧ s.rx.hdrCnt.val = 13 ∧ inValid s = false ∧ inEos s = true) ∧
    (validating (h6Bytes.set 13 0x7B)).rx.state = .validating ∧
      (((Memory.bytes (bufferOf (h6Bytes.set 13 0x7B))).take 13).map BitVec.toNat).sum % 256 ≠
        (Memory.read (bufferOf (h6Bytes.set 13 0x7B)) 13).toNat := by decide

theorem witness_ErrorRowsAreTheErrorPathEntry :
    (let s := atEnd (awaiting [4]);
      s.rx.state = .awaitingHeader ∧ s.rx.hdrCnt.val = 1 ∧ inValid s = false ∧ inEos s = true) ∧
    (let s := atEnd (awaiting (h6Bytes.take 13));
      s.rx.state = .awaitingHeader ∧ s.rx.hdrCnt.val = 13 ∧ inValid s = false ∧ inEos s = true) ∧
    (validating (h6Bytes.set 13 0x7B)).rx.state = .validating ∧
      (((Memory.bytes (bufferOf (h6Bytes.set 13 0x7B))).take 13).map BitVec.toNat).sum % 256 ≠
        (Memory.read (bufferOf (h6Bytes.set 13 0x7B)) 13).toNat := by decide

theorem witness_ReadPayloadPassesAByte :
    (let s := onStream ⟨[0x6F], true⟩ (reading 1 4);
      s.rx.state = .readingPayload ∧ s.rx.payRem ≠ 0 ∧ s.env.stream.bytes = [0x6F]) ∧
    (let s := onStream ⟨[0x6F], true⟩ (reading 65535 0);
      s.rx.state = .readingPayload ∧ s.rx.payRem ≠ 0 ∧ s.env.stream.bytes = [0x6F]) := by decide

theorem witness_ReadPayloadCompletes : (reading 0 5).rx.state = .readingPayload ∧ (reading 0 5).rx.payRem = 0 := by
  decide

theorem witness_ReadPayloadMeetsEndOfData :
    (let s := atEnd (reading 1 4);
      s.rx.state = .readingPayload ∧ s.rx.payRem ≠ 0 ∧ inValid s = false ∧ inEos s = true) ∧
    (let s := atEnd (reading 65535 0);
      s.rx.state = .readingPayload ∧ s.rx.payRem ≠ 0 ∧ inValid s = false ∧ inEos s = true) := by decide

/-- V-R2, V-R8's count, V-R4, V-R6. -/
theorem witness_ReadExactTakesWhatThereIs :
    (reading 0 5).rx.state = .readingPayload ∧ (reading 0 5).rx.payRem = 0 ∧ (0 : Half).toNat ≤ ([] : List Byte).length ∧
      (3 : Half).toNat ≤ ([1, 2, 3] : List Byte).length ∧ ([] : List Byte).length < (3 : Half).toNat ∧
      (onStream ⟨[], true⟩ (reading 3 2)).env.stream.ends = true ∧
      (onStream ⟨[0x68, 0x65], false⟩ (reading 5 0)).rx.payRem = 5 ∧
      (onStream ⟨[0x68, 0x65], false⟩ (reading 5 0)).env.stream.ends = false := by decide

theorem witness_ReadExactIsReadPayloadFused :
    (reading 5 0).rx.state = .readingPayload ∧ (reading 5 0).rx.payRem = 5 := by decide

/-- V-R5's chunks. -/
theorem witness_ReadExactIgnoresGrouping :
    ∀ c ∈ ([[0x68, 0x65], [0x6C, 0x6C, 0x6F]] : List (List Byte)), c ≠ [] := by decide

theorem witness_DispatchChoosesByPriority : (dispatching synHeader).rx.state = .dispatching := by decide

theorem witness_ClassRowsStartTheirResponse :
    (dispatching synHeader).rx.state = .dispatching ∧ (dispatching synHeader).rx.x = synHeader ∧
      synHeader.synFlag = 1 ∧ ackHeader.synFlag ≠ 1 ∧ ackHeader.ackFlag = 1 ∧ finHeader.synFlag ≠ 1 ∧
      finHeader.ackFlag ≠ 1 ∧ finHeader.finFlag = 1 ∧ h6.synFlag ≠ 1 ∧ h6.ackFlag ≠ 1 ∧ h6.finFlag ≠ 1 := by decide

/-- RX in the middle of a session meets the invariant. -/
theorem awaiting_inv : (awaiting [4]).Inv where
  hdr_wf := by decide
  tx_wf := by decide
  fields :=
    { valid_fields := by decide, valid_count := by decide, invalid_zero := by decide, payload_sum := by decide
      short_missing := by decide }
  response :=
    { index_bound := by decide, class_code := by decide, error_code := fun _ => .inl rfl }
  state := ⟨by decide, rfl, rfl, rfl, fun a ha => by
    have h : a ≠ 0 := by
      rintro rfl
      exact absurd ha (by decide)
    show Memory.read [(0, 4)] a = 0
    simp [Memory.read, h]⟩

theorem validating_inv : (validating (h6Bytes.set 13 0x7B)).Inv where
  hdr_wf := by decide
  tx_wf := by decide
  fields :=
    { valid_fields := by decide, valid_count := by decide, invalid_zero := by decide, payload_sum := by decide
      short_missing := by decide }
  response :=
    { index_bound := by decide, class_code := by decide, error_code := fun _ => .inl rfl }
  state := ⟨rfl, rfl, rfl, rfl⟩

theorem dispatching_inv : (dispatching h6).Inv where
  hdr_wf := by decide
  tx_wf := by decide
  fields :=
    { valid_fields := by decide, valid_count := by decide, invalid_zero := by decide, payload_sum := by decide
      short_missing := by decide }
  response :=
    { index_bound := by decide, class_code := by decide, error_code := by decide }
  state := ⟨rfl, rfl, rfl, by decide⟩

theorem witness_ValidateLoadsTheFields :
    ((validating (h6Bytes.set 13 0x7B)).Inv ∧ (validating (h6Bytes.set 13 0x7B)).rx.state = .validating) ∧
      (validating h6Bytes).rx.state = .validating ∧
      (((Memory.bytes (bufferOf h6Bytes)).take 13).map BitVec.toNat).sum % 256 =
        (Memory.read (bufferOf h6Bytes) 13).toNat :=
  ⟨⟨validating_inv, rfl⟩, by decide⟩

theorem witness_SelectedOperationIsTheHeadersRow :
    ((dispatching h6).Inv ∧ (dispatching h6).rx.state = .dispatching ∧
        decode ⟨.header, Memory.bytes (dispatching h6).rx.hdrBuf⟩ = .instr (.data h6)) ∧
      ((validating (h6Bytes.set 13 0x7B)).Inv ∧ (validating (h6Bytes.set 13 0x7B)).rx.state = .validating ∧
        decode ⟨.header, Memory.bytes (validating (h6Bytes.set 13 0x7B)).rx.hdrBuf⟩ =
          .instr (.badsum { h6 with checksum := 0x7B })) ∧
      ((awaiting [4]).Inv ∧ (awaiting [4]).rx.state = .awaitingHeader ∧
        decode ⟨.header, (Memory.bytes (awaiting [4]).rx.hdrBuf).take (awaiting [4]).rx.hdrCnt.val⟩ =
          .instr (.shorthdr [4])) :=
  ⟨⟨dispatching_inv, rfl, by decide⟩, ⟨validating_inv, rfl, by decide⟩, ⟨awaiting_inv, rfl, by decide⟩⟩

theorem witness_RespondSendsTheNextByte :
    (responding .syn 0 h6).rx.state = .responding ∧
      (responding .syn 0 h6).rx.respIdx.toNat < (respBytes .syn 5).length ∧
      (responding .syn 36 h6).rx.respIdx.toNat < (respBytes .syn 5).length := by decide

/-- Both errors; the checksum error for whatever length MSG_CHECKSUM has. -/
theorem witness_NextAfterAnErrorResponse :
    (responding .errMalformed 33 zeroHeader).rx.respIdx.toNat = (respBytes .errMalformed 0).length ∧
      (responding .errChecksum (BitVec.ofNat 8 (respLen .errChecksum 0)) zeroHeader).rx.respIdx.toNat =
        (respBytes .errChecksum 0).length := by
  refine ⟨by decide, ?_⟩
  have h : (respBytes .errChecksum 0).length ≤ 255 := respLen_le .errChecksum 0
  show (BitVec.ofNat 8 (respBytes .errChecksum 0).length).toNat = _
  rw [BitVec.toNat_ofNat]
  omega

theorem witness_NextEndsOrContinues :
    (responding .fin 35 finHeader).rx.respIdx.toNat = (respBytes .fin 0).length ∧ finHeader.finFlag = 1 ∧
      (responding .data 35 h6).rx.respIdx.toNat = (respBytes .data 5).length ∧ h6.finFlag ≠ 1 := by decide

theorem witness_AbortEndsTheSessionSilently :
    (onPins { Pins.low with abort := true } (awaiting [4])).rx.state ≠ .terminated ∧
      (onPins { Pins.low with abort := true } (awaiting [4])).env.pins.abort = true ∧
      State.reset.rx.state = .terminated := by decide

theorem witness_ResetRestoresEveryRegister :
    (onPins { Pins.low with rst := true } (awaiting [4])).env.pins.rst = true := by decide

theorem witness_TerminatedRxIsStill :
    State.reset.rx.state = .terminated ∧ after (exec .encByte State.reset) = some State.reset ∧
      (Instr.encByte ≠ .openSession) ∧ Instr.encByte ≠ .reset := by decide

theorem witness_TransitionTableIsComplete :
    after (exec .validate (validating h6Bytes)) ≠ none ∧ Arc .validate (validating h6Bytes) .readingPayload ∧
      Arc .next (responding .fin 35 finHeader) .terminated :=
  ⟨by decide, .validated rfl (by decide),
    .finAnswered rfl (by decide) (by decide) (by decide) (by decide) (by decide)⟩

theorem witness_SilentPeerBlocksForEver :
    (awaiting [4]).rx.state = .awaitingHeader ∧ (awaiting [4]).env.moves = [] ∧ inValid (awaiting [4]) = false ∧
      inEos (awaiting [4]) = false ∧ (awaiting [4]).env.pins.abort = false ∧ (awaiting [4]).env.pins.rst = false ∧
      encOperation (awaiting [4]) = none ∧
      (after (exec (.recvHeader .eos) (atEnd (awaiting [4])))).map (fun t => t.rx.state) = some .responding := by decide

theorem witness_FieldRegistersChangeTogether :
    ((awaiting [4]).Inv ∧ (awaiting [4]).rx.hdrValid = false) ∧
    (after (exec .validate (validating h6Bytes))).map (fun t => decide (t.rx.x ≠ (validating h6Bytes).rx.x)) =
        some true ∧
      (after (exec .reset (dispatching h6))).map (fun t => decide (t.rx.x ≠ (dispatching h6).rx.x)) = some true :=
  ⟨⟨awaiting_inv, rfl⟩, by decide⟩

theorem witness_StreamsMoveInTurn :
    (after (exec (.readPayload (.byte 0x68)) (onStream ⟨[0x68], true⟩ (reading 5 0)))).map
        (fun t => (t.env.stream.bytes, t.env.payOut)) = some ([], [0x68]) ∧
      (after (exec .respond (responding .syn 0 h6))).map (fun t => t.env.respOut) = some [⟨0x53, false⟩] := by decide

theorem witness_UnitsCommute :
    Instr.abort ≠ .reset ∧ (∀ f, Instr.abort ≠ .encCmd f) ∧ Instr.abort ≠ .encByte ∧
      ((∃ f, Instr.encByte = .encCmd f) ∨ Instr.encByte = .encByte) :=
  ⟨by decide, fun f h => by simp at h, by decide, .inr rfl⟩

theorem witness_ShortPayloadChangesNothingElse :
    (let s := atEnd (reading 1 4);
      s.rx.state = .readingPayload ∧ s.rx.payRem ≠ 0 ∧ inValid s = false ∧ inEos s = true) ∧
    (reading 65535 0).rx.payRem ≠ 0 ∧ after (exec .dispatch (dispatching h6)) ≠ none ∧
      after (exec .respond (responding .syn 0 h6)) ≠ none ∧
      after (exec .next (responding .data 35 h6)) ≠ none := by decide

theorem witness_DecimalText :
    0 < 65536 ∧ 0 < 10 ∧ 9 < 10 ∧ 10 ≤ 10 ∧ 10 ≤ 65535 ∧ 65535 < 65536 := by decide

/-- V-K8, V-K15, V-K12, V-K13. -/
theorem witness_ClassifyTruthTable :
    (1 : Byte) = 1 ∧ (2 : Byte) ≠ 1 ∧ (255 : Byte) ≠ 1 ∧ (0 : Byte) ≠ 1 := by decide

theorem witness_StepRunsTheDecodedInstruction :
    (pushMove (.event ⟨.rstPin, []⟩) State.reset).env.moves = [.event ⟨.rstPin, []⟩] ∧
      decode ⟨.rstPin, []⟩ = .instr .reset ∧ (pushMove (.edge .low) State.reset).env.moves = [.edge .low] ∧
      (pushMove (.bind ⟨[1], true⟩) State.reset).env.moves = [.bind ⟨[1], true⟩] ∧ State.reset.env.moves = [] ∧
      State.reset.env.pins.rst = false ∧
      decodeTableWord 112 0x04D213880000000400000000057A = some (.data h6) := by decide

/-- The states and levels of every clause. -/
theorem witness_EdgeTakesTheFirstThatApplies :
    (let s := onPins { Pins.low with inValid := true, payReady := true } (onStream ⟨[0x13], true⟩ (awaiting [4]));
      s.env.pins.abort = false ∧ inValid s = true ∧ s.rx.state = .awaitingHeader) ∧
    (let s := onPins { Pins.low with inValid := true, payReady := true } (onStream ⟨[0x13], true⟩ (reading 1 4));
      inValid s = true ∧ s.rx.state = .readingPayload ∧ s.rx.payRem ≠ 0 ∧ s.env.pins.payReady = true) ∧
    (let s := onPins { Pins.low with inValid := true } (onStream ⟨[0x13], true⟩ (reading 65535 0));
      inValid s = true ∧ s.rx.payRem ≠ 0 ∧ s.env.pins.payReady = false) ∧
    (inValid (awaiting []) = false ∧ inValid (reading 1 4) = false ∧ (reading 0 5).rx.payRem = 0) ∧
    ((responding .syn 36 h6).rx.respIdx.toNat < currentRespLen (responding .syn 36 h6) ∧
      (responding .syn 37 h6).rx.respIdx.toNat = currentRespLen (responding .syn 37 h6)) ∧
    ((onPins { Pins.low with abort := true } (awaiting [])).env.pins.abort = true ∧
      (onPins { Pins.low with openValid := true } State.reset).env.pins.openValid = true ∧
      State.reset.env.pins.openValid = false ∧ State.reset.rx.state = .terminated) ∧
    (validating h6Bytes).rx.state = .validating ∧ (dispatching h6).rx.state = .dispatching ∧
    State.reset.enc.txIdx = 14 ∧ (sending 0).enc.txIdx.val < 14 ∧ (sending 13).enc.txIdx.val < 14 := by decide

theorem witness_EndOfDataIsIgnoredUnlessWanted :
    wantsByte (reading 0 5) = false ∧ wantsByte (responding .data 0 h6) = false ∧ wantsByte State.reset = false := by
  decide

theorem witness_AbortAndResetEdgesMoveNoByte :
    (let s := onPins { Pins.low with abort := true, inValid := true } (onStream ⟨[0x55], true⟩ (awaiting [4]));
      s.env.pins.abort = true ∧ s.rx.state ≠ .terminated ∧ after (clockEdge s) ≠ none) ∧
    (let s := onPins { Pins.low with rst := true, inValid := true } (onStream ⟨[0x55], true⟩ (awaiting [4]));
      s.env.pins.rst = true ∧ after (clockEdge s) ≠ none) := by decide

theorem witness_StepKeepsTheInvariant :
    (awaiting [4]).Inv ∧ after (step (awaiting [4])) = some (awaiting [4]) ∧
      (dispatching h6).Inv ∧ (after (step (dispatching h6))).map (fun t => t.rx.state) = some .responding :=
  ⟨awaiting_inv, by decide, dispatching_inv, by decide⟩

theorem witness_NothingStopsTheMachine :
    (awaiting [4]).Inv ∧ wellFormed (.recvHeader (.byte 0)) = true ∧ wellFormed .next = true :=
  ⟨awaiting_inv, by decide⟩

/-- Both errors, each with its whole response sent. -/
theorem witness_ExceptionNumbers :
    (let s := responding .errMalformed 33 zeroHeader;
      s.rx.state = .responding ∧ s.rx.respCode = .ofError .malformedHeader ∧
        s.rx.respIdx.toNat = (respBytes s.rx.respCode s.rx.x.payloadSize).length ∧ after (exec .next s) ≠ none) ∧
    (let s := responding .errChecksum (BitVec.ofNat 8 (respLen .errChecksum 0)) zeroHeader;
      s.rx.state = .responding ∧ s.rx.respCode = .ofError .checksumError ∧
        s.rx.respIdx.toNat = (respBytes s.rx.respCode s.rx.x.payloadSize).length) :=
  ⟨by decide, rfl, rfl, witness_NextAfterAnErrorResponse.2⟩

/-- No byte, another byte; a byte offered while in_eos is high, and in_eos low. -/
theorem witness_StreamEventsComeFromTheStream :
    (awaiting []).env.stream.bytes.head? ≠ some 4 ∧
      (onStream ⟨[5, 4], true⟩ (awaiting (h6Bytes.take 13))).env.stream.bytes.head? ≠ some 4 ∧
      (awaiting (h6Bytes.take 13)).rx.hdrCnt.val = 13 ∧ (awaiting []).rx.hdrCnt.val = 0 ∧
      inValid (onPins { Pins.low with inValid := true, inEos := true } (onStream ⟨[5], true⟩ (awaiting [4]))) = true ∧
      inEos (onStream ⟨[5], true⟩ (reading 3 2)) = false := by decide

/-- Any session on H6 and its payload. -/
theorem witness_SmallStepsGiveTheSession :
    let s := onPins sessionPins (onStream ⟨h6Bytes ++ [1, 2, 3, 4, 5], true⟩ State.reset)
    after (exec .openSession s) ≠ none ∧ s.rx.state = .terminated ∧ s.env.moves = [] ∧ s.env.pins = sessionPins ∧
      s.env.stream = ⟨h6Bytes ++ [1, 2, 3, 4, 5], true⟩ := by decide

end Sys2Proof.Tests
end

section
/-! PROOFS. The events of the stream: an operation that fires on InByte(b) or InEos takes no
step without it (spec 00_scope.md R12; log entries 8 and 13). -/

namespace Sys2Proof.Machine

variable {s : State}

/-! ## No event -/

theorem deliversByte_eq_false {b : Byte} (h : s.env.stream.bytes.head? ≠ some b) : deliversByte b s = false :=
  beq_false_of_ne h

/-- A byte offered comes before end-of-data, and a low in_eos signals none. -/
theorem endOfData_eq_false (h : inValid s = true ∨ inEos s = false) : endOfData s = false := by
  rw [Bool.eq_false_iff, ne_eq, endOfData_iff]
  rintro ⟨hv, he⟩
  cases h with
  | inl h => simp [hv] at h
  | inr h => simp [he] at h

/-! ## The operations that fire on InByte(b) (R167, R173) -/

/-- HDR_CNT = 14 is refused, so the hypothesis on it is needed (log entry 9). -/
theorem execRecvHeader_byte_waits {b : Byte} (hc : s.rx.hdrCnt.val ≤ 13) (h : deliversByte b s = false) :
    execRecvHeader (.byte b) s = .next s := by
  have hc : s.rx.hdrCnt ≠ 14 := (ne_fourteen _).mpr hc
  simp [execRecvHeader, hc, h]

theorem execReadPayload_byte_waits {b : Byte} (h : deliversByte b s = false) :
    execReadPayload (.byte b) s = .next s := by
  simp [execReadPayload, h]

/-! ## The operations that fire on InEos (R168, R169, R175, R103, R235) -/

theorem execRecvHeader_eos_waits (hc : s.rx.hdrCnt.val ≤ 13) (h : endOfData s = false) :
    execRecvHeader .eos s = .next s := by
  have hc : s.rx.hdrCnt ≠ 14 := (ne_fourteen _).mpr hc
  simp [execRecvHeader, hc, h]

theorem execReadPayload_eos_waits (h : endOfData s = false) : execReadPayload .eos s = .next s := by
  simp [execReadPayload, h]

theorem execErrorPath_malformedHeader_waits (h : endOfData s = false) :
    execErrorPath .malformedHeader s = .next s := by
  simp [execErrorPath, h]

theorem execShorthdr_waits (bs : List Byte) (h : endOfData s = false) : execShorthdr bs s = .next s := by
  simp [execShorthdr, h]

end Sys2Proof.Machine

open Sys2Proof.Machine in
/-- Settles O59: InByte(b) and InEos are the guards `deliversByte` and `endOfData` of every operation that fires on
them, and a failed guard is `noStep`. -/
theorem streamEventsComeFromTheStream : Obligations.StreamEventsComeFromTheStream := by
  intro s
  constructor
  case left =>
    intro b hb
    have hn := deliversByte_eq_false hb
    exact ⟨fun hc => execRecvHeader_byte_waits hc hn, execReadPayload_byte_waits hn⟩
  case right =>
    intro he
    have hn := endOfData_eq_false he
    exact ⟨fun hc => execRecvHeader_eos_waits hc hn, execReadPayload_eos_waits hn,
      execErrorPath_malformedHeader_waits hn, fun bs => execShorthdr_waits bs hn⟩

end

section
/-! PROOFS. What a step and a clock edge are (spec 00_scope.md R13, 10_state.md R50): an equation for each move, the
operation a table word placed for fetching runs, and the inversion of one operation run after another. -/

namespace Sys2Proof.Machine

variable {s t : State}

/-! ## One move (log entries 1 to 3) -/

theorem step_edge {p : Pins} {rest : List Move} (h : s.env.moves = .edge p :: rest) :
    step s = clockEdge { s with env := { s.env with pins := p, moves := rest } } := by
  simp [step, h]

theorem step_bind {d : Stream} {rest : List Move} (h : s.env.moves = .bind d :: rest) :
    step s = .next { s with env := { s.env with stream := d, moves := rest } } := by
  simp [step, h]

theorem step_event {w : OpWord} {i : Instr} {rest : List Move} (h : s.env.moves = .event w :: rest)
    (hd : decode w = .instr i) : step s = exec i { s with env := { s.env with moves := rest } } := by
  simp [step, h, hd]

theorem step_undecodable {w : OpWord} {r : DecodeReject} {rest : List Move} (h : s.env.moves = .event w :: rest)
    (hd : decode w = .reject r) : step s = .refused (.undecodable r) := by
  simp [step, h, hd]

/-! ## A table word (log entries 3 and 4) -/

theorem decode_of_decodeTableWord {nbits w : Nat} {i : Instr} (h : decodeTableWord nbits w = some i) :
    decode (tableWord nbits w) = .instr i := by
  cases hd : decode (tableWord nbits w) with
  | instr j => simpa [decodeTableWord, hd] using h
  | reject r => simp [decodeTableWord, hd] at h

theorem placeWord_of_decode {w : OpWord} {i : Instr} (h : decode w = .instr i) (s : State) :
    placeWord w s = pushMove (.event w) (prepare i s) := by
  simp [placeWord, h]

/-- The placed word is the first move, and taking it off leaves the prepared state. -/
theorem step_withFetchWord {nbits w : Nat} {i : Instr} (h : decodeTableWord nbits w = some i) (s : State) :
    step (s.withFetchWord nbits w) = exec i (prepare i s) := by
  have hd := decode_of_decodeTableWord h
  rw [State.withFetchWord, placeWord_of_decode hd]
  exact step_event rfl hd

/-! ## One operation after another -/

theorem thenRun_eq_next {r : Host.Outcome State Fault Refusal} {f : State → Host.Outcome State Fault Refusal}
    (h : thenRun r f = .next t) : ∃ u, r = .next u ∧ f u = .next t := by
  cases r with
  | next u => exact ⟨u, rfl, h⟩
  | fault e => simp [thenRun] at h
  | refused e => simp [thenRun] at h

theorem execIf_eq_elim (o : Option Instr) (s : State) :
    execIf o s = o.elim (.next s) (fun i => exec i s) := by
  cases o <;> rfl

end Sys2Proof.Machine

open Sys2Proof.Machine in
/-- Settles O48: one equation of `step` for each move, and of `clockEdge` for an edge without rst. -/
theorem stepRunsTheDecodedInstruction : Obligations.StepRunsTheDecodedInstruction := by
  refine ⟨fun s w i rest hm hd => step_event hm hd, fun s p rest hm => step_edge hm,
    fun s d rest hm => step_bind hm, fun s hm => step_idle hm, fun s hr => ?edge,
    fun s nbits w i hd => step_withFetchWord hd s⟩
  rw [clockEdge_running hr, execIf_eq_elim]
  exact congrArg _ (funext (execIf_eq_elim _))

end

section
/-! PROOFS. The invariant: what it says of an open session at each value of STATE, one lemma for each named update that
an operation performs, and from them that every operation, every clock edge and every step keeps it (spec 10_state.md
R21, R25, R27, R28, R33; 43_response_generator.md R210; 93_implementation_defined.md U12). -/

namespace Sys2Proof.Machine

variable {s t : State}

/-! ## What the invariant says of an open session -/

section
variable (hi : s.Inv)
include hi

theorem State.Inv.at_awaitingHeader (hs : s.rx.state = .awaitingHeader) :
    s.rx.hdrCnt.val ≤ 13 ∧ s.rx.hdrValid = false ∧ s.rx.respCode = .none ∧ s.rx.termCause = .none ∧
      ∀ a, s.rx.hdrCnt.val ≤ a → Memory.read s.rx.hdrBuf a = 0 := by
  simpa only [StateInv, hs] using hi.state

theorem State.Inv.at_validating (hs : s.rx.state = .validating) :
    s.rx.hdrCnt = 14 ∧ s.rx.hdrValid = false ∧ s.rx.respCode = .none ∧ s.rx.termCause = .none := by
  simpa only [StateInv, hs] using hi.state

theorem State.Inv.at_readingPayload (hs : s.rx.state = .readingPayload) :
    s.rx.hdrValid = true ∧ s.rx.respCode = .none ∧ s.rx.termCause = .none ∧ s.rx.short = false := by
  simpa only [StateInv, hs] using hi.state

theorem State.Inv.at_dispatching (hs : s.rx.state = .dispatching) :
    s.rx.hdrValid = true ∧ s.rx.respCode = .none ∧ s.rx.termCause = .none ∧
      (s.rx.short = true ↔ s.rx.payRem ≠ 0) := by
  simpa only [StateInv, hs] using hi.state

theorem State.Inv.at_responding (hs : s.rx.state = .responding) :
    s.rx.respCode ≠ .none ∧ s.rx.termCause = .none ∧
      (s.rx.hdrValid = true → (s.rx.short = true ↔ s.rx.payRem ≠ 0)) := by
  simpa only [StateInv, hs] using hi.state

end

/-! ## Updates outside the registers the invariant relates -/

/-- Of ENC the invariant looks at the form of TX_BUF only, and at nothing of the environment. -/
theorem State.Inv.of_rx (hi : s.Inv) (hrx : t.rx = s.rx) (htx : Memory.wf t.enc.txBuf = true) : t.Inv where
  hdr_wf := hrx ▸ hi.hdr_wf
  tx_wf := htx
  fields := hrx ▸ hi.fields
  response := hrx ▸ hi.response
  state := hrx ▸ hi.state

theorem State.Inv.of_units (hi : s.Inv) (hrx : t.rx = s.rx) (henc : t.enc = s.enc) : t.Inv :=
  hi.of_rx hrx (henc ▸ hi.tx_wf)

theorem State.Inv.setResult (hi : s.Inv) (r : FnResult) : (setResult r s).Inv :=
  hi.of_units rfl rfl

theorem State.Inv.consume (hi : s.Inv) (n : Nat) : (consume n s).Inv :=
  hi.of_units rfl rfl

theorem State.Inv.loadTx (hi : s.Inv) (f : FieldTuple) : (loadTx f s).Inv :=
  hi.of_rx (loadTx_rx s f) (loadTx_wf f s)

theorem State.Inv.pushTx (hi : s.Inv) : (pushTx s).Inv :=
  hi.of_rx rfl hi.tx_wf

/-! ## Reset and the cleared frame (R42, R43) -/

theorem State.reset_inv : State.reset.Inv where
  hdr_wf := rfl
  tx_wf := rfl
  fields :=
    { valid_fields := fun h => absurd h (by decide)
      valid_count := fun h => absurd h (by decide)
      invalid_zero := fun _ => ⟨rfl, rfl, rfl, rfl⟩
      payload_sum := rfl
      short_missing := fun h => absurd h (by decide) }
  response :=
    { index_bound := Nat.zero_le _
      class_code := fun _ => .inl rfl
      error_code := fun _ => .inl rfl }
  state := rfl

theorem resetUnits_inv (s : State) : (resetUnits s).Inv :=
  State.reset_inv.of_units rfl rfl

/-- OPEN and NEXT's continue arm leave RX awaiting a header, with the frame registers of reset. -/
theorem State.Inv.clearFrame (hi : s.Inv)
    (hrx : t.rx = { (clearFrame s).rx with termCause := .none, state := .awaitingHeader })
    (henc : t.enc = s.enc) : t.Inv where
  hdr_wf := hrx ▸ rfl
  tx_wf := henc ▸ hi.tx_wf
  fields := hrx ▸ { State.reset_inv.fields with }
  response := hrx ▸ { State.reset_inv.response with }
  state := hrx ▸ ⟨Nat.zero_le _, rfl, rfl, rfl, fun _ _ => rfl⟩

/-! ## The end of a session (R33) -/

/-- Ending a session changes STATE and TERM_CAUSE only. -/
theorem State.Inv.terminate {c : TermCause} (hi : s.Inv) (he : EndedInv (terminate c s).rx) : (terminate c s).Inv :=
  { hi with
    fields := { hi.fields with }
    response := { hi.response with }
    state := he }

/-! ## Headers (R167, R169, R171, R172) -/

theorem State.Inv.collectHeaderByte (hi : s.Inv) (hs : s.rx.state = .awaitingHeader) (b : Byte) :
    (collectHeaderByte b s).Inv := by
  obtain ⟨hcnt, hv, hc, ht, hz⟩ := hi.at_awaitingHeader hs
  exact
    { hi with
      hdr_wf := Memory.write_wf (Nat.lt_succ_of_le hcnt) hi.hdr_wf
      fields :=
        { hi.fields with
          valid_fields := fun h => absurd (hv.symm.trans h) (by decide)
          valid_count := fun h => absurd (hv.symm.trans h) (by decide) }
      response := { hi.response with error_code := fun _ => .inl hc }
      state := by
        by_cases hlast : s.rx.hdrCnt + 1 = 14
        · simp [StateInv, hlast, hv, hc, ht]
        · have hval : (s.rx.hdrCnt + 1).val = s.rx.hdrCnt.val + 1 := by
            rw [Fin.val_add_one_of_lt' (by omega)]
          have hle := (ne_fourteen _).mp hlast
          simp only [StateInv, collectHeaderByte_state, hlast, if_false, hs]
          refine ⟨hle, hv, hc, ht, fun a ha => ?_⟩
          rw [collectHeaderByte_hdrCnt, hval] at ha
          rw [collectHeaderByte_hdrBuf, Memory.read_write_other hi.hdr_wf (by omega), hz a (by omega)] }

theorem State.Inv.raiseMalformedHeader (hi : s.Inv) (hs : s.rx.state = .awaitingHeader) (h0 : s.rx.hdrCnt ≠ 0) :
    (raiseFraming .malformedHeader s).Inv := by
  obtain ⟨hcnt, hv, -, ht, -⟩ := hi.at_awaitingHeader hs
  exact
    { hi with
      fields := { hi.fields with }
      response :=
        { index_bound := Nat.zero_le _
          class_code := fun h => absurd (hv.symm.trans h) (by decide)
          error_code := fun _ => .inr (.inl ⟨rfl, (ne_zero _).mp h0, hcnt⟩) }
      state := ⟨RespCode.noConfusion, ht, fun h => absurd (hv.symm.trans h) (by decide)⟩ }

theorem State.Inv.raiseChecksumError (hi : s.Inv) (hs : s.rx.state = .validating)
    (hw : checksumRight (Memory.bytes s.rx.hdrBuf) = false) : (raiseFraming .checksumError s).Inv := by
  obtain ⟨hcnt, hv, -, ht⟩ := hi.at_validating hs
  exact
    { hi with
      fields := { hi.fields with }
      response :=
        { index_bound := Nat.zero_le _
          class_code := fun h => absurd (hv.symm.trans h) (by decide)
          error_code := fun _ => .inr (.inr ⟨rfl, hcnt, hw⟩) }
      state := ⟨RespCode.noConfusion, ht, fun h => absurd (hv.symm.trans h) (by decide)⟩ }

theorem State.Inv.loadFields (hi : s.Inv) (hs : s.rx.state = .validating)
    (hr : checksumRight (Memory.bytes s.rx.hdrBuf) = true) :
    (loadFields (headerOfBytes (Memory.bytes s.rx.hdrBuf)) s).Inv := by
  obtain ⟨hcnt, hv, hc, ht⟩ := hi.at_validating hs
  obtain ⟨-, -, -, hshort⟩ := hi.fields.invalid_zero hv
  have hidx : s.rx.respIdx.toNat = 0 := by simpa [hc] using hi.response.index_bound
  exact
    { hi with
      fields :=
        { valid_fields := fun _ => decodeHeader_right (Memory.bytes_length _) hr
          valid_count := fun _ => hcnt
          invalid_zero := Bool.noConfusion
          payload_sum := Nat.zero_add _
          short_missing := fun h => absurd (hshort.symm.trans h) (by decide) }
      response :=
        { index_bound := hidx.trans_le (Nat.zero_le _)
          class_code := fun _ => .inl hc
          error_code := fun _ => .inl hc }
      state := ⟨rfl, hc, ht, hshort⟩ }

/-! ## The payload (R25, R28, R173 to R175) -/

/-- As many bytes as are missing, or fewer, move from PAY_REM to PAY_CNT without wrapping. -/
theorem State.Inv.passPayload {bs : List Byte} (hi : s.Inv) (hs : s.rx.state = .readingPayload)
    (hl : bs.length ≤ s.rx.payRem.toNat) : (passPayload bs s).Inv := by
  obtain ⟨hv, hc, ht, hshort⟩ := hi.at_readingPayload hs
  exact
    { hi with
      fields :=
        { hi.fields with
          invalid_zero := fun h => absurd (hv.symm.trans h) (by decide)
          payload_sum := by
            have hsum := hi.fields.payload_sum
            have hrem := s.rx.payRem.isLt
            have hsize := s.rx.x.payloadSize.isLt
            simp only [passPayload_payCnt, passPayload_payRem, passPayload_x, BitVec.toNat_add, BitVec.toNat_sub,
              BitVec.toNat_ofNat]
            omega
          short_missing := fun h => absurd (hshort.symm.trans h) (by decide) }
      response := { hi.response with }
      state := by
        simp only [StateInv, passPayload_state, hs]
        exact ⟨hv, hc, ht, hshort⟩ }

theorem State.Inv.payloadComplete (hi : s.Inv) (hs : s.rx.state = .readingPayload) (h0 : s.rx.payRem = 0) :
    (enterState .dispatching s).Inv := by
  obtain ⟨hv, hc, ht, hshort⟩ := hi.at_readingPayload hs
  exact
    { hi with
      fields := { hi.fields with }
      response := { hi.response with }
      state := ⟨hv, hc, ht, by simp [hshort, h0]⟩ }

theorem State.Inv.payloadShort (hi : s.Inv) (hs : s.rx.state = .readingPayload) (h0 : s.rx.payRem ≠ 0) :
    (enterState .dispatching { s with rx := { s.rx with short := true } }).Inv := by
  obtain ⟨hv, hc, ht, -⟩ := hi.at_readingPayload hs
  exact
    { hi with
      fields :=
        { hi.fields with
          invalid_zero := fun h => absurd (hv.symm.trans h) (by decide)
          short_missing := fun _ => h0 }
      response := { hi.response with }
      state := ⟨hv, hc, ht, iff_of_true rfl h0⟩ }

/-! ## Responses (R177 to R182) -/

theorem RespCode.ofClass_ne_none (c : FrameClass) : RespCode.ofClass c ≠ .none := by
  cases c <;> decide

theorem State.Inv.startClassResponse (hi : s.Inv) (hs : s.rx.state = .dispatching) :
    (startResponse (.ofClass (classOf s.rx.x)) s).Inv := by
  obtain ⟨hv, -, ht, hshort⟩ := hi.at_dispatching hs
  exact
    { hi with
      fields := { hi.fields with }
      response :=
        { index_bound := Nat.zero_le _
          class_code := fun _ => .inr rfl
          error_code := fun h => absurd (hv.symm.trans h) (by decide) }
      state := ⟨RespCode.ofClass_ne_none _, ht, fun _ => hshort⟩ }

/-- No response is long enough for RESP_IDX to wrap (R210). -/
theorem State.Inv.pushResponse (hi : s.Inv) (hs : s.rx.state = .responding)
    (hl : s.rx.respIdx.toNat < respLen s.rx.respCode s.rx.x.payloadSize) : (pushResponse s).Inv :=
  { hi with
    fields := { hi.fields with }
    response :=
      { hi.response with
        index_bound := by
          have hone : (1 : BitVec 8).toNat = 1 := rfl
          have hmax := respLen_le s.rx.respCode s.rx.x.payloadSize
          simp only [pushResponse_respIdx, pushResponse_respCode, pushResponse_x, BitVec.toNat_add]
          omega }
    state := by
      simp only [StateInv, pushResponse_state, hs]
      exact hi.at_responding hs }

/-- A response that is no error text answers a verified header. -/
theorem State.Inv.hdrValid_of_classResponse (hi : s.Inv) (h0 : s.rx.respCode ≠ .none)
    (h1 : s.rx.respCode ≠ .errMalformed) (h2 : s.rx.respCode ≠ .errChecksum) : s.rx.hdrValid = true := by
  cases hv : s.rx.hdrValid with
  | true => rfl
  | false => simpa [h0, h1, h2] using hi.response.error_code hv

theorem State.Inv.nextArm (hi : s.Inv) (hs : s.rx.state = .responding)
    (hl : s.rx.respIdx.toNat = respLen s.rx.respCode s.rx.x.payloadSize) (h0 : s.rx.respCode ≠ .none) :
    (nextArm s).Inv := by
  obtain ⟨-, ht, -⟩ := hi.at_responding hs
  obtain ⟨c, hc, heq⟩ | ⟨-, -, -, heq⟩ := nextArm_cases s <;> rw [heq]
  case inl =>
    obtain ⟨rfl, h⟩ | ⟨rfl, h⟩ | ⟨rfl, h1, h2, hfin⟩ := hc
    · exact hi.terminate ⟨h, hl⟩
    · exact hi.terminate ⟨h, hl⟩
    · exact hi.terminate ⟨hi.hdrValid_of_classResponse h0 h1 h2, hfin, h0, hl⟩
  case inr => exact hi.clearFrame (by simp [enterState, Machine.clearFrame, ht]) rfl

/-! ## Operations, edges and steps -/

theorem execReadPayload_keeps_inv {e : PayloadEvent} (hi : s.Inv) (h : execReadPayload e s = .next t) : t.Inv := by
  obtain rfl | ⟨hs, ⟨b, -, h0, -, rfl⟩ | ⟨-, h0, -, rfl⟩ | ⟨-, h0, rfl⟩⟩ := execReadPayload_next h
  · exact hi
  · refine (hi.consume 1).passPayload hs (Nat.one_le_iff_ne_zero.mpr fun h => h0 ?_)
    exact BitVec.eq_of_toNat_eq h
  · exact hi.payloadShort hs h0
  · exact hi.payloadComplete hs h0

/-- READ_EXACT passes on what it has, and then its payload is complete, short, or still awaited. -/
theorem execReadExact_keeps_inv {n : Half} (hi : s.Inv) (h : execReadExact n s = .next t) : t.Inv := by
  obtain rfl | ⟨hs, rfl, ⟨hl, rfl⟩ | ⟨hl, -, u, rfl, rfl⟩ | ⟨hl, -, rfl⟩⟩ := execReadExact_next h
  · exact hi
  · have hlen : (s.env.stream.bytes.take s.rx.payRem.toNat).length = s.rx.payRem.toNat := by simpa using hl
    refine (((hi.consume _).passPayload hs hlen.le).payloadComplete hs ?_).setResult _
    simp [hlen]
  · refine (((hi.consume _).passPayload hs hl.le).payloadShort hs ?_).setResult _
    intro h0
    have hzero : (0 : Half).toNat = 0 := rfl
    have hrem := congrArg BitVec.toNat h0
    simp only [passPayload_payRem, consume_rx, BitVec.toNat_sub, BitVec.toNat_ofNat] at hrem
    omega
  · exact (hi.consume _).passPayload hs hl.le

theorem execRecvHeader_keeps_inv {e : StreamEvent} (hi : s.Inv) (h : execRecvHeader e s = .next t) : t.Inv := by
  obtain rfl | ⟨hs, ⟨b, -, -, -, rfl⟩ | ⟨-, h0, -, rfl⟩ | ⟨-, h0, -, -, rfl⟩⟩ := execRecvHeader_next h
  · exact hi
  · exact (hi.consume 1).collectHeaderByte hs b
  · obtain ⟨-, hv, hc, -, -⟩ := hi.at_awaitingHeader hs
    exact hi.terminate ⟨h0, hv, hc⟩
  · exact hi.raiseMalformedHeader hs h0

theorem execValidate_keeps_inv (hi : s.Inv) (h : execValidate s = .next t) : t.Inv := by
  obtain rfl | ⟨hs, ⟨hr, rfl⟩ | ⟨hw, rfl⟩⟩ := execValidate_next h
  · exact hi
  · exact hi.loadFields hs hr
  · exact hi.raiseChecksumError hs hw

theorem execErrorPath_keeps_inv {e : FramingError} (hi : s.Inv) (h : execErrorPath e s = .next t) : t.Inv := by
  obtain rfl | ⟨rfl, ⟨rfl, hs, h0, -, -⟩ | ⟨rfl, hs, hw⟩⟩ := execErrorPath_next h
  · exact hi
  · exact hi.raiseMalformedHeader hs h0
  · exact hi.raiseChecksumError hs hw

theorem runClass_keeps_inv {c : FrameClass} {x : Header} (hi : s.Inv) (h : runClass c x s = .next t) : t.Inv := by
  obtain rfl | ⟨hs, rfl, rfl, rfl⟩ := runClass_next h
  · exact hi
  · exact hi.startClassResponse hs

/-- Every operation keeps the invariant, well-formed or not. -/
theorem exec_keeps_inv {i : Instr} (hi : s.Inv) (h : exec i s = .next t) : t.Inv := by
  cases i with
  | syn x | ack x | fin x | data x => exact runClass_keeps_inv hi h
  | badsum x =>
    obtain rfl | ⟨hs, hb, hw, rfl⟩ := execBadsum_next h
    · exact hi
    · exact hi.raiseChecksumError hs (hb ▸ hw)
  | shorthdr bs =>
    obtain rfl | ⟨hs, hcnt, h1, -, -, -, rfl⟩ := execShorthdr_next h
    · exact hi
    · exact hi.raiseMalformedHeader hs ((ne_zero _).mpr (hcnt ▸ h1))
  | checksum bs =>
    obtain ⟨-, rfl⟩ := execChecksum_next h
    exact hi.setResult _
  | encode u =>
    obtain rfl := execEncode_next h
    exact hi.setResult _
  | decode bs =>
    obtain ⟨-, rfl⟩ := execDecode_next h
    exact hi.setResult _
  | readExact n => exact execReadExact_keeps_inv hi h
  | encCmd f =>
    obtain ⟨-, rfl⟩ | ⟨-, rfl⟩ := execEncCmd_next h
    · exact hi
    · exact hi.loadTx f
  | encByte =>
    obtain ⟨-, rfl⟩ | ⟨-, rfl⟩ := execEncByte_next h
    · exact hi
    · exact hi.pushTx
  | openSession =>
    obtain rfl | ⟨-, rfl⟩ := execOpen_next h
    · exact hi
    · exact hi.clearFrame rfl rfl
  | recvHeader e => exact execRecvHeader_keeps_inv hi h
  | validate => exact execValidate_keeps_inv hi h
  | readPayload e => exact execReadPayload_keeps_inv hi h
  | dispatch =>
    obtain rfl | ⟨hs, rfl⟩ := execDispatch_next h
    · exact hi
    · exact hi.startClassResponse hs
  | respond =>
    obtain rfl | ⟨hs, hl, rfl⟩ := execRespond_next h
    · exact hi
    · exact hi.pushResponse hs hl
  | next =>
    obtain rfl | ⟨hs, hl, h0, rfl⟩ := execNext_next h
    · exact hi
    · exact hi.nextArm hs hl h0
  | errorPath e => exact execErrorPath_keeps_inv hi h
  | abort =>
    obtain rfl | ⟨-, rfl⟩ := execAbort_next h
    · exact hi
    · exact hi.terminate trivial
  | reset =>
    obtain rfl := execReset_next h
    exact resetUnits_inv s

theorem execIf_keeps_inv {o : Option Instr} (hi : s.Inv) (h : execIf o s = .next t) : t.Inv := by
  cases o with
  | none =>
    obtain rfl : s = t := by simpa [execIf] using h
    exact hi
  | some i => exact exec_keeps_inv hi h

theorem clockEdge_keeps_inv (hi : s.Inv) (h : clockEdge s = .next t) : t.Inv := by
  cases hr : s.env.pins.rst with
  | true =>
    obtain rfl : resetUnits s = t := by simpa [clockEdge_reset hr] using h
    exact resetUnits_inv s
  | false =>
    rw [clockEdge_running hr] at h
    obtain ⟨u, hrx, henc⟩ := thenRun_eq_next h
    exact execIf_keeps_inv (execIf_keeps_inv hi hrx) henc

theorem step_keeps_inv (hi : s.Inv) (h : step s = .next t) : t.Inv := by
  match hm : s.env.moves with
  | [] =>
    rw [step_idle hm] at h
    exact clockEdge_keeps_inv hi h
  | .edge p :: rest =>
    rw [step_edge hm] at h
    refine clockEdge_keeps_inv (hi.of_units ?_ ?_) h <;> rfl
  | .bind d :: rest =>
    rw [step_bind hm] at h
    cases h
    exact hi.of_units rfl rfl
  | .event w :: rest =>
    cases hd : decode w with
    | instr i =>
      rw [step_event hm hd] at h
      refine exec_keeps_inv (hi.of_units ?_ ?_) h <;> rfl
    | reject r =>
      rw [step_undecodable hm hd] at h
      cases h

end Sys2Proof.Machine

/-- Settles O52: the registers of reset, field by field. -/
theorem invariantHoldsAtReset : Obligations.InvariantHoldsAtReset :=
  Sys2Proof.Machine.State.reset_inv

/-- Settles O53: each operation performs named updates and each of these keeps the invariant where the operation fires;
an edge is at most one operation of each unit, and a step is an edge, an operation or a change of the environment. -/
theorem stepKeepsTheInvariant : Obligations.StepKeepsTheInvariant :=
  fun _ _ => Sys2Proof.Machine.step_keeps_inv

end

section
/-! PROOFS. The field registers: an operation leaves them, loads them whole, or clears them (spec 10_state.md R21, R42;
42_session_sequencer.md R171). -/

namespace Sys2Proof.Machine

variable {s t : State}

theorem nextArm_x_cases (s : State) :
    (nextArm s).rx.x = s.rx.x ∨ (nextArm s).rx.x = zeroHeader ∧ (nextArm s).rx.hdrValid = false := by
  obtain ⟨c, -, heq⟩ | ⟨-, -, -, heq⟩ := nextArm_cases s <;> rw [heq]
  · exact .inl rfl
  · exact .inr ⟨rfl, rfl⟩

/-- Where the operation clears the field registers, HDR_VALID is cleared with them. -/
theorem exec_x_cases {i : Instr} (h : exec i s = .next t) :
    t.rx.x = s.rx.x ∨
      (i = .validate ∧ s.rx.state = .validating ∧ decodeHeader (Memory.bytes s.rx.hdrBuf) = .fields t.rx.x ∧
        t.rx.hdrValid = true) ∨
      ((i = .openSession ∨ i = .next ∨ i = .reset) ∧ t.rx.x = zeroHeader ∧ t.rx.hdrValid = false) := by
  cases i with
  | validate =>
    obtain rfl | ⟨hs, ⟨hr, rfl⟩ | ⟨-, rfl⟩⟩ := execValidate_next (s := s) h
    · exact .inl rfl
    · have hd := decodeHeader_right (Memory.bytes_length _) hr
      exact .inr (.inl ⟨rfl, hs, hd, rfl⟩)
    · exact .inl rfl
  | openSession =>
    obtain rfl | ⟨-, rfl⟩ := execOpen_next h
    · exact .inl rfl
    · exact .inr (.inr ⟨.inl rfl, rfl, rfl⟩)
  | next =>
    obtain rfl | ⟨-, -, -, rfl⟩ := execNext_next h
    · exact .inl rfl
    · exact (nextArm_x_cases s).imp id fun hx => .inr ⟨.inr (.inl rfl), hx⟩
  | reset =>
    obtain rfl := execReset_next h
    exact .inr (.inr ⟨.inr (.inr rfl), rfl, rfl⟩)
  | syn x | ack x | fin x | data x =>
    obtain rfl | ⟨-, -, -, rfl⟩ := runClass_next h <;> exact .inl rfl
  | badsum x => obtain rfl | ⟨-, -, -, rfl⟩ := execBadsum_next h <;> exact .inl rfl
  | shorthdr bs => obtain rfl | ⟨-, -, -, -, -, -, rfl⟩ := execShorthdr_next h <;> exact .inl rfl
  | checksum bs => obtain ⟨-, rfl⟩ := execChecksum_next h; exact .inl rfl
  | encode u => obtain rfl := execEncode_next h; exact .inl rfl
  | decode bs => obtain ⟨-, rfl⟩ := execDecode_next h; exact .inl rfl
  | readExact n =>
    obtain rfl | ⟨-, -, ⟨-, rfl⟩ | ⟨-, -, u, rfl, rfl⟩ | ⟨-, -, rfl⟩⟩ := execReadExact_next h <;>
      exact .inl rfl
  | encCmd f => obtain ⟨-, rfl⟩ | ⟨-, rfl⟩ := execEncCmd_next h <;> exact .inl rfl
  | encByte => obtain ⟨-, rfl⟩ | ⟨-, rfl⟩ := execEncByte_next h <;> exact .inl rfl
  | recvHeader e =>
    obtain rfl | ⟨-, ⟨b, -, -, -, rfl⟩ | ⟨-, -, -, rfl⟩ | ⟨-, -, -, -, rfl⟩⟩ := execRecvHeader_next h <;>
      exact .inl rfl
  | readPayload e =>
    obtain rfl | ⟨-, ⟨b, -, -, -, rfl⟩ | ⟨-, -, -, rfl⟩ | ⟨-, -, rfl⟩⟩ := execReadPayload_next h <;>
      exact .inl rfl
  | dispatch => obtain rfl | ⟨-, rfl⟩ := execDispatch_next h <;> exact .inl rfl
  | respond => obtain rfl | ⟨-, -, rfl⟩ := execRespond_next h <;> exact .inl rfl
  | errorPath e => obtain rfl | ⟨rfl, -⟩ := execErrorPath_next h <;> exact .inl rfl
  | abort => obtain rfl | ⟨-, rfl⟩ := execAbort_next h <;> exact .inl rfl

end Sys2Proof.Machine

/-- Settles O41: `exec_x_cases` without its first case, and the invariant's clause for HDR_VALID = 0. -/
theorem fieldRegistersChangeTogether : Obligations.FieldRegistersChangeTogether :=
  ⟨fun _ hi hv => (hi.fields.invalid_zero hv).1,
    fun _ _ _ h hx => (Sys2Proof.Machine.exec_x_cases h).resolve_left hx⟩

end

section
/-! PROOFS. What RX and ENC take at a clock edge: one equation for each value of STATE, with the order of
10_state.md R50 written out (60_exceptions.md R231, R233). -/

namespace Sys2Proof.Machine

variable {s : State}

/-! ## RX (R50 items 1 to 7) -/

theorem rxOperation_abort (ha : s.env.pins.abort = true) (hs : s.rx.state ≠ .terminated) :
    rxOperation s = some .abort := by
  simp [rxOperation, closed, ha, hs]

/-- Abort does nothing in TERMINATED, so Open is taken whatever its level. -/
theorem rxOperation_terminated (hs : s.rx.state = .terminated) :
    rxOperation s = if s.env.pins.openValid = true then some .openSession else none := by
  simp [rxOperation, closed, openReady, inReady, payloadPending, wantsByte, respValid, internalOperation, hs]

/-- A byte comes before end-of-data. -/
theorem rxOperation_awaitingHeader (ha : s.env.pins.abort = false) (hs : s.rx.state = .awaitingHeader) :
    rxOperation s = if inValid s = true then some (.recvHeader (.byte (inData s)))
      else if inEos s = true then some (.recvHeader .eos) else none := by
  cases hv : inValid s <;> cases he : inEos s <;>
    simp [rxOperation, openReady, inReady, wantsByte, endOfData, payloadPending, respValid, internalOperation,
      streamOperation, ha, hs, hv, he]

theorem rxOperation_readingPayload (ha : s.env.pins.abort = false) (hs : s.rx.state = .readingPayload)
    (hr : s.rx.payRem ≠ 0) :
    rxOperation s = if inValid s = true then
        if s.env.pins.payReady = true then some (.readPayload (.byte (inData s))) else none
      else if inEos s = true then some (.readPayload .eos) else none := by
  have hr : s.rx.payRem ≠ 0#16 := hr
  cases hv : inValid s <;> cases hp : s.env.pins.payReady <;> cases he : inEos s <;>
    simp [rxOperation, openReady, inReady, wantsByte, endOfData, payloadPending, respValid, internalOperation,
      streamOperation, ha, hs, hr, hv, hp, he]

theorem rxOperation_payloadComplete (ha : s.env.pins.abort = false) (hs : s.rx.state = .readingPayload)
    (hr : s.rx.payRem = 0) : rxOperation s = some (.readPayload .done) := by
  simp [rxOperation, openReady, inReady, wantsByte, payloadPending, respValid, internalOperation, ha, hs, hr]

theorem rxOperation_validating (ha : s.env.pins.abort = false) (hs : s.rx.state = .validating) :
    rxOperation s = some .validate := by
  simp [rxOperation, openReady, inReady, wantsByte, payloadPending, respValid, internalOperation, ha, hs]

theorem rxOperation_dispatching (ha : s.env.pins.abort = false) (hs : s.rx.state = .dispatching) :
    rxOperation s = some .dispatch := by
  simp [rxOperation, openReady, inReady, wantsByte, payloadPending, respValid, internalOperation, ha, hs]

theorem rxOperation_responding (ha : s.env.pins.abort = false) (hs : s.rx.state = .responding) :
    rxOperation s = if s.rx.respIdx.toNat < currentRespLen s then
        if s.env.pins.respReady = true then some .respond else none
      else some .next := by
  by_cases hl : s.rx.respIdx.toNat < currentRespLen s <;>
    simp [rxOperation, openReady, inReady, wantsByte, payloadPending, respValid, internalOperation, ha, hs, hl]

/-! ## ENC -/

theorem encOperation_idle (h : s.enc.txIdx = 14) :
    encOperation s = if s.env.pins.encValid = true then some (.encCmd s.env.pins.enc) else none := by
  simp [encOperation, encReady, txValid, h]

theorem encOperation_busy (h : s.enc.txIdx.val < 14) :
    encOperation s = if s.env.pins.txReady = true then some .encByte else none := by
  have hne : s.enc.txIdx ≠ 14 := (ne_fourteen _).mpr (Nat.le_of_lt_succ h)
  simp [encOperation, encReady, txValid, h, hne]

end Sys2Proof.Machine

open Sys2Proof.Machine in
/-- Settles O49: the equation for the value of STATE, or of TX_IDX, that each clause is about. -/
theorem edgeTakesTheFirstThatApplies : Obligations.EdgeTakesTheFirstThatApplies := by
  intro s
  refine ⟨rxOperation_abort, fun ho hs => ?opened, fun ha hv => ⟨fun hs => ?headerByte, fun hs hr hp => ?payloadByte,
    fun hs hr hp => ?payloadHeld⟩, fun ha hv => ⟨fun hs => ?headerEnd, fun hs hr => ?payloadEnd⟩,
    fun ha => ⟨rxOperation_validating ha, rxOperation_payloadComplete ha, rxOperation_dispatching ha,
      fun hs hl => ?responseByte, fun hs hl => ?responseSent⟩, fun hs ho => ?closed,
    encOperation_idle, encOperation_busy⟩
  case opened => simp [rxOperation_terminated hs, ho]
  case headerByte => simp [rxOperation_awaitingHeader ha hs, hv]
  case payloadByte => simp [rxOperation_readingPayload ha hs hr, hv, hp]
  case payloadHeld => simp [rxOperation_readingPayload ha hs hr, hv, hp]
  case headerEnd => simp [rxOperation_awaitingHeader ha hs, hv]
  case payloadEnd => simp [rxOperation_readingPayload ha hs hr, hv]
  case responseByte => simp [rxOperation_responding ha hs, hl]
  case responseSent => simp [rxOperation_responding ha hs, hl]
  case closed => simp [rxOperation_terminated hs, ho]

end

section
/-! PROOFS. The output pins: what they offer while RX is closed and ENC is idle, and the status outputs (spec
10_state.md R43, R45 to R49, with the codes of R24, R32 and R33). -/

namespace Sys2Proof.Machine

variable {s : State}

/-! ## A closed RX and an idle ENC (R45 to R48) -/

theorem payValid_of_terminated (hs : s.rx.state = .terminated) : payValid s = false := by
  simp [payValid, payloadPending, hs]

theorem respValid_of_terminated (hs : s.rx.state = .terminated) : respValid s = false := by
  simp [respValid, hs]

theorem inReady_of_terminated (hs : s.rx.state = .terminated) : inReady s = false := by
  simp [inReady, payloadPending, hs]

theorem openReady_iff : openReady s = true ↔ s.rx.state = .terminated := by
  simp [openReady]

theorem txValid_of_idle (h : s.enc.txIdx = 14) : txValid s = false := by
  simp [txValid, h]

theorem encReady_iff : encReady s = true ↔ s.enc.txIdx = 14 := by
  simp [encReady]

/-! ## Status (R49, 20_memory.md R78) -/

theorem stClosed_iff : (status s).stClosed = true ↔ s.rx.state = .terminated := by
  simp [status, closed]

/-- A counter that ends at 14 fits its 4-bit output. -/
theorem counter_toNat (c : Fin 15) : (BitVec.ofNat 4 c.val).toNat = c.val := by
  rw [BitVec.toNat_ofNat]
  exact Nat.mod_eq_of_lt (c.isLt.trans (by decide))

end Sys2Proof.Machine

open Sys2Proof.Machine in
/-- Settles O37: the registers of reset by evaluation; at any pins RX is closed and ENC is idle. -/
theorem resetOffersNothing : Obligations.ResetOffersNothing :=
  ⟨rfl, rfl, rfl, rfl, rfl, rfl, rfl, rfl, rfl, rfl, rfl, rfl, rfl, fun _ =>
    ⟨payValid_of_terminated rfl, respValid_of_terminated rfl, txValid_of_idle rfl, inReady_of_terminated rfl,
      openReady_iff.mpr rfl, encReady_iff.mpr rfl, stClosed_iff.mpr rfl⟩⟩

open Sys2Proof.Machine in
/-- Settles O57: the three codes by the cases of their registers, the two counters by their bound, and every other
output is its register. -/
theorem statusOutputsShowTheRegisters : Obligations.StatusOutputsShowTheRegisters := by
  intro s
  refine ⟨?state, ?respCode, ?termCause, counter_toNat _, counter_toNat _, rfl, rfl, rfl, rfl, rfl, rfl, rfl, rfl, rfl,
    rfl, rfl, rfl, rfl, stClosed_iff⟩
  case state => simp only [status]; cases s.rx.state <;> rfl
  case respCode => simp only [status]; cases s.rx.respCode <;> rfl
  case termCause => simp only [status]; cases s.rx.termCause <;> rfl

end

section
/-! PROOFS. The accesses of the two buffers: MemRead assembles the bytes at its offsets, MemWrite stores the spelling of
its value, and a spelling assembles to its value again (spec 20_memory.md R61 to R64). -/

namespace Sys2Proof.Machine

/-! ## Big-endian spelling and assembly (R61, R63) -/

@[simp] theorem beValue_one (b : Byte) : beValue [b] = b.toNat := by
  simp [beValue]

theorem beValue_concat (bs : List Byte) (b : Byte) : beValue (bs ++ [b]) = beValue bs * 256 + b.toNat := by
  simp [beValue]

/-- The last byte of a spelling is the value's lowest; the others spell the rest. -/
theorem spell_succ (n v : Nat) : spell (n + 1) v = spell n (v / 256) ++ [BitVec.ofNat 8 v] := by
  rw [spell, List.range_succ, List.map_append, List.map_singleton, spell]
  congr 1
  · refine List.map_congr_left fun k hk => ?_
    have hn : n + 1 - 1 - k = (n - 1 - k) + 1 := by
      have := List.mem_range.mp hk
      omega
    rw [hn, Nat.pow_succ', ← Nat.div_div_eq_div_mul]
  · simp

theorem beValue_spell (n : Nat) : ∀ {v : Nat}, v < 256 ^ n → beValue (spell n v) = v := by
  induction n with
  | zero =>
    intro v hv
    rw [Nat.pow_zero, Nat.lt_one_iff] at hv
    rw [hv]
    rfl
  | succ n ih =>
    intro v hv
    have hrest : v / 256 < 256 ^ n := Nat.div_lt_of_lt_mul (by rwa [Nat.pow_succ'] at hv)
    rw [spell_succ, beValue_concat, ih hrest, BitVec.toNat_ofNat]
    omega

theorem spell_getD_toNat {n k : Nat} (v : Nat) (hk : k < n) :
    ((spell n v).getD k 0).toNat = v / 256 ^ (n - 1 - k) % 256 := by
  simp [spell, hk]

/-! ## An access inside the buffer (R62, R63) -/

theorem accessInside_iff {a n : Nat} : accessInside a n = true ↔ (n = 1 ∨ n = 2 ∨ n = 4) ∧ a + n ≤ 14 := by
  simp only [accessInside, Bool.and_eq_true, Bool.or_eq_true, beq_iff_eq, decide_eq_true_eq, or_assoc]
  rfl

theorem Memory.bytes_slice (m : Memory) {a n : Nat} (h : a + n ≤ 14) :
    ((Memory.bytes m).drop a).take n = (List.range n).map fun k => Memory.read m (a + k) := by
  refine List.ext_getElem (by simp; omega) fun k _ _ => ?_
  simp [Memory.bytes]

theorem memRead_inside (m : Memory) {a n : Nat} (h : accessInside a n = true) :
    memRead m a n = some (beValue ((List.range n).map fun k => Memory.read m (a + k))) := by
  rw [memRead, if_pos h, be, Memory.bytes_slice m (accessInside_iff.mp h).2]

theorem memWrite_inside (m : Memory) {a n v : Nat} (h : accessInside a n = true) (hv : v < 256 ^ n) :
    memWrite m a n v = some (Memory.store m a (spell n v)) := by
  rw [memWrite, if_pos ⟨h, hv⟩]

/-! ## Bytes after a store -/

section
variable {m : Memory} {a : Nat} {bs : List Byte} (hm : Memory.wf m = true) (ha : a + bs.length ≤ 14)
include hm ha

theorem Memory.read_store_inside {k : Nat} (hk : k < bs.length) :
    Memory.read (Memory.store m a bs) (a + k) = bs.getD k 0 := by
  rw [Memory.read_store _ ha hm, if_pos (by omega), Nat.add_sub_cancel_left]

theorem Memory.read_store_outside {c : Nat} (hc : c < a ∨ a + bs.length ≤ c) :
    Memory.read (Memory.store m a bs) c = Memory.read m c := by
  rw [Memory.read_store _ ha hm, if_neg (by omega)]

theorem Memory.reads_store :
    ((List.range bs.length).map fun k => Memory.read (Memory.store m a bs) (a + k)) = bs := by
  refine List.ext_getElem (by simp) fun k hk hk' => ?_
  simp [Memory.read_store_inside hm ha hk', hk']

end

end Sys2Proof.Machine

open Sys2Proof.Machine in
/-- Settles O11: MemRead is the assembly of the bytes read one by one, written out for each width. -/
theorem memReadIsBigEndian : Obligations.MemReadIsBigEndian := by
  refine fun m a => ⟨fun ha => ?byte, fun ha => ?half, fun ha => ?word⟩
  case byte =>
    rw [memRead_inside m (accessInside_iff.mpr ⟨.inl rfl, by omega⟩)]
    simp
  case half =>
    rw [memRead_inside m (accessInside_iff.mpr ⟨.inr (.inl rfl), by omega⟩)]
    simp [List.range_succ]
  case word =>
    rw [memRead_inside m (accessInside_iff.mpr ⟨.inr (.inr rfl), by omega⟩)]
    simp [List.range_succ]

open Sys2Proof.Machine in
/-- Settles O12: MemWrite is a store of the spelling, and assembling the stored bytes gives the spelling's value. -/
theorem memWriteThenMemRead : Obligations.MemWriteThenMemRead := by
  intro m a n v hm hn ha hv
  have hin : accessInside a n = true := accessInside_iff.mpr ⟨hn, ha⟩
  have hlen : (spell n v).length = n := spell_length n v
  have ha' : a + (spell n v).length ≤ 14 := hlen.symm ▸ ha
  refine ⟨_, memWrite_inside m hin hv, Memory.store_wf ha' hm, ?readBack, fun k hk => ?spelling, fun c hc => ?frame⟩
  case readBack =>
    have hreads := Memory.reads_store hm ha'
    rw [hlen] at hreads
    rw [memRead_inside _ hin, hreads, beValue_spell n hv]
  case spelling => rw [Memory.read_store_inside hm ha' (hlen.symm ▸ hk), spell_getD_toNat v hk]
  case frame => exact Memory.read_store_outside hm ha' (hlen.symm ▸ hc)

end

section
/-! PROOFS. The streams and HDR_BUF: the five things an operation can do to them, each in its own state (spec
20_memory.md R70, R74 to R76, R81; 40_frame_codec.md R132). -/

namespace Sys2Proof.Machine

variable {s t : State}

/-- What an operation that leads from `s` to `t` does to the bound stream, to the three outputs and to HDR_BUF. -/
inductive StreamMove (s t : State) : Prop
  /-- Nothing, but that HDR_BUF may be cleared. -/
  | kept (hstream : t.env.stream = s.env.stream) (hpay : t.env.payOut = s.env.payOut)
      (hresp : t.env.respOut = s.env.respOut) (htx : t.env.txOut = s.env.txOut)
      (hbuf : t.rx.hdrBuf = s.rx.hdrBuf ∨ t.rx.hdrBuf = [])
  /-- One byte of the stream goes to HDR_BUF (R167). -/
  | header (hs : s.rx.state = .awaitingHeader) (b : Byte) (ht : t = collectHeaderByte b (consume 1 s))
  /-- Bytes of the stream go to the payload output (R173, R150). -/
  | payload (hs : s.rx.state = .readingPayload) (k : Nat) (p : List Byte)
      (hstream : t.env.stream = (consume k s).env.stream) (hpay : t.env.payOut = s.env.payOut ++ p)
      (hresp : t.env.respOut = s.env.respOut) (htx : t.env.txOut = s.env.txOut) (hbuf : t.rx.hdrBuf = s.rx.hdrBuf)
  /-- One response byte (R178). -/
  | response (hs : s.rx.state = .responding) (ht : t = pushResponse s)
  /-- One encoder byte (R132). -/
  | encoder (hidx : s.enc.txIdx.val < 14) (ht : t = pushTx s)

theorem StreamMove.of_env (henv : t.env = s.env) (hbuf : t.rx.hdrBuf = s.rx.hdrBuf ∨ t.rx.hdrBuf = []) :
    StreamMove s t := by
  apply StreamMove.kept <;> simp [henv, hbuf]

theorem StreamMove.refl (s : State) : StreamMove s s :=
  .of_env rfl (.inl rfl)

theorem StreamMove.setResult (r : FnResult) (s : State) : StreamMove s (setResult r s) :=
  .kept rfl rfl rfl rfl (.inl rfl)

theorem StreamMove.nextArm (s : State) : StreamMove s (nextArm s) := by
  obtain ⟨c, -, heq⟩ | ⟨-, -, -, heq⟩ := nextArm_cases s <;> rw [heq]
  · exact .of_env rfl (.inl rfl)
  · exact .of_env rfl (.inr rfl)

theorem execReadExact_streamMove {n : Half} (h : execReadExact n s = .next t) : StreamMove s t := by
  obtain rfl | ⟨hs, -, ⟨-, rfl⟩ | ⟨-, -, u, rfl, rfl⟩ | ⟨-, -, rfl⟩⟩ := execReadExact_next h
  · exact .refl _
  · exact .payload hs n.toNat (s.env.stream.bytes.take n.toNat) rfl rfl rfl rfl rfl
  · exact .payload hs s.env.stream.bytes.length s.env.stream.bytes rfl rfl rfl rfl rfl
  · exact .payload hs s.env.stream.bytes.length s.env.stream.bytes rfl rfl rfl rfl rfl

theorem execReadPayload_streamMove {e : PayloadEvent} (h : execReadPayload e s = .next t) : StreamMove s t := by
  obtain rfl | ⟨hs, ⟨b, -, -, -, rfl⟩ | ⟨-, -, -, rfl⟩ | ⟨-, -, rfl⟩⟩ := execReadPayload_next h
  · exact .refl _
  · exact .payload hs 1 [b] rfl rfl rfl rfl rfl
  · exact .of_env rfl (.inl rfl)
  · exact .of_env rfl (.inl rfl)

theorem execRecvHeader_streamMove {e : StreamEvent} (h : execRecvHeader e s = .next t) : StreamMove s t := by
  obtain rfl | ⟨hs, ⟨b, -, -, -, rfl⟩ | ⟨-, -, -, rfl⟩ | ⟨-, -, -, -, rfl⟩⟩ := execRecvHeader_next h
  · exact .refl _
  · exact .header hs b rfl
  · exact .of_env rfl (.inl rfl)
  · exact .of_env rfl (.inl rfl)

theorem execOpen_streamMove (h : execOpen s = .next t) : StreamMove s t := by
  obtain rfl | ⟨-, rfl⟩ := execOpen_next h
  · exact .refl _
  · exact .kept rfl rfl rfl rfl (.inr rfl)

theorem execValidate_streamMove (h : execValidate s = .next t) : StreamMove s t := by
  obtain rfl | ⟨-, ⟨-, rfl⟩ | ⟨-, rfl⟩⟩ := execValidate_next h
  · exact .refl _
  · exact .of_env rfl (.inl rfl)
  · exact .of_env rfl (.inl rfl)

theorem exec_streamMove {i : Instr} (h : exec i s = .next t) : StreamMove s t := by
  cases i with
  | readExact n => exact execReadExact_streamMove h
  | readPayload e => exact execReadPayload_streamMove h
  | recvHeader e => exact execRecvHeader_streamMove h
  | openSession => exact execOpen_streamMove h
  | validate => exact execValidate_streamMove h
  | respond =>
    obtain rfl | ⟨hs, -, rfl⟩ := execRespond_next h
    · exact .refl _
    · exact .response hs rfl
  | encByte =>
    obtain ⟨-, rfl⟩ | ⟨hidx, rfl⟩ := execEncByte_next h
    · exact .refl _
    · exact .encoder (Nat.lt_succ_of_le ((ne_fourteen _).mp hidx)) rfl
  | encCmd f =>
    obtain ⟨-, rfl⟩ | ⟨-, rfl⟩ := execEncCmd_next h
    · exact .refl _
    · exact .of_env (loadTx_env s f) (.inl (congrArg RxRegs.hdrBuf (loadTx_rx s f)))
  | next =>
    obtain rfl | ⟨-, -, -, rfl⟩ := execNext_next h
    · exact .refl _
    · exact .nextArm s
  | reset =>
    obtain rfl := execReset_next h
    exact .of_env rfl (.inr rfl)
  | checksum bs => obtain ⟨-, rfl⟩ := execChecksum_next h; exact .setResult _ s
  | encode u => obtain rfl := execEncode_next h; exact .setResult _ s
  | decode bs => obtain ⟨-, rfl⟩ := execDecode_next h; exact .setResult _ s
  | syn x | ack x | fin x | data x =>
    obtain rfl | ⟨-, -, -, rfl⟩ := runClass_next h <;> exact .of_env rfl (.inl rfl)
  | badsum x => obtain rfl | ⟨-, -, -, rfl⟩ := execBadsum_next h <;> exact .of_env rfl (.inl rfl)
  | shorthdr bs => obtain rfl | ⟨-, -, -, -, -, -, rfl⟩ := execShorthdr_next h <;> exact .of_env rfl (.inl rfl)
  | dispatch => obtain rfl | ⟨-, rfl⟩ := execDispatch_next h <;> exact .of_env rfl (.inl rfl)
  | errorPath e => obtain rfl | ⟨rfl, -⟩ := execErrorPath_next h <;> exact .of_env rfl (.inl rfl)
  | abort => obtain rfl | ⟨-, rfl⟩ := execAbort_next h <;> exact .of_env rfl (.inl rfl)

/-! ## What every move obeys -/

theorem StreamMove.stream (h : StreamMove s t) :
    ∃ k, t.env.stream.bytes = s.env.stream.bytes.drop k ∧ t.env.stream.ends = s.env.stream.ends ∧
      (0 < k → s.rx.state = .awaitingHeader ∨ s.rx.state = .readingPayload) := by
  cases h with
  | kept hstream => exact ⟨0, by simp [hstream]⟩
  | header hs b ht => exact ⟨1, by simp [ht, hs]⟩
  | payload hs k p hstream => exact ⟨k, by simp [hstream, hs]⟩
  | response hs ht => exact ⟨0, by simp [ht]⟩
  | encoder hidx ht => exact ⟨0, by simp [ht]⟩

theorem StreamMove.payOut (h : StreamMove s t) :
    ∃ p, t.env.payOut = s.env.payOut ++ p ∧ (p ≠ [] → s.rx.state = .readingPayload) := by
  cases h with
  | kept _ hpay => exact ⟨[], by simp [hpay]⟩
  | header hs b ht => exact ⟨[], by simp [ht]⟩
  | payload hs k p _ hpay => exact ⟨p, hpay, fun _ => hs⟩
  | response hs ht => exact ⟨[], by simp [ht]⟩
  | encoder hidx ht => exact ⟨[], by simp [ht]⟩

theorem StreamMove.respOut (h : StreamMove s t) :
    ∃ r, t.env.respOut = s.env.respOut ++ r ∧ r.length ≤ 1 ∧ (r ≠ [] → s.rx.state = .responding) := by
  cases h with
  | kept _ _ hresp => exact ⟨[], by simp [hresp]⟩
  | header hs b ht => exact ⟨[], by simp [ht]⟩
  | payload hs k p _ _ hresp => exact ⟨[], by simp [hresp]⟩
  | response hs ht =>
    subst ht
    exact ⟨_, pushResponse_respOut s, by simp, fun _ => hs⟩
  | encoder hidx ht => exact ⟨[], by simp [ht]⟩

theorem StreamMove.txOut (h : StreamMove s t) :
    ∃ x, t.env.txOut = s.env.txOut ++ x ∧ x.length ≤ 1 ∧ (x ≠ [] → s.enc.txIdx.val < 14) := by
  cases h with
  | kept _ _ _ htx => exact ⟨[], by simp [htx]⟩
  | header hs b ht => exact ⟨[], by simp [ht]⟩
  | payload hs k p _ _ _ htx => exact ⟨[], by simp [htx]⟩
  | response hs ht => exact ⟨[], by simp [ht]⟩
  | encoder hidx ht =>
    subst ht
    exact ⟨_, pushTx_txOut s, by simp, fun _ => hidx⟩

theorem StreamMove.hdrBuf (h : StreamMove s t) :
    t.rx.hdrBuf = s.rx.hdrBuf ∨ t.rx.hdrBuf = [] ∨ s.rx.state = .awaitingHeader := by
  cases h with
  | kept _ _ _ _ hbuf => exact hbuf.imp_right .inl
  | header hs b ht => exact .inr (.inr hs)
  | payload hs k p _ _ _ _ hbuf => exact .inl hbuf
  | response hs ht => exact .inl (ht ▸ rfl)
  | encoder hidx ht => exact .inl (ht ▸ rfl)

end Sys2Proof.Machine

/-- Settles O42: every operation is one of the moves of `StreamMove`, and each move keeps to its state. -/
theorem streamsMoveInTurn : Obligations.StreamsMoveInTurn := by
  intro i s t h
  have hmove := Sys2Proof.Machine.exec_streamMove h
  exact ⟨hmove.stream, hmove.payOut, hmove.respOut, hmove.txOut, hmove.hdrBuf⟩

end

section
/-! PROOFS. The two units share nothing: an operation of RX neither reads nor writes ENC's registers and output, and
these are all that an operation of ENC reads and writes (spec 20_memory.md R77, 10_state.md R44, 60_exceptions.md
R241). -/

namespace Sys2Proof.Machine

variable {s t : State}

/-- The state with ENC's registers and the encoder output replaced. -/
def withEnc (e : EncRegs) (o : List Beat) (s : State) : State :=
  { s with enc := e, env := { s.env with txOut := o } }

theorem withEnc_self (s : State) : withEnc s.enc s.env.txOut s = s := rfl

theorem thenRun_ite (p : Prop) [Decidable p] (a b : Host.Outcome State Fault Refusal)
    (f : State → Host.Outcome State Fault Refusal) :
    thenRun (if p then a else b) f = if p then thenRun a f else thenRun b f :=
  apply_ite (thenRun · f) p a b

/-- Replacing ENC before `f` is replacing it after: `f` neither looks at ENC nor changes it. -/
def EncBlind (f : State → Host.Outcome State Fault Refusal) : Prop :=
  ∀ (e : EncRegs) (o : List Beat) (s : State), f (withEnc e o s) = thenRun (f s) fun t => .next (withEnc e o t)

theorem execRecvHeader_encBlind (v : StreamEvent) : EncBlind (execRecvHeader v) := by
  intro e o s
  cases v <;> simp only [execRecvHeader, thenRun_ite] <;> rfl

theorem execReadPayload_encBlind (v : PayloadEvent) : EncBlind (execReadPayload v) := by
  intro e o s
  cases v <;> simp only [execReadPayload, thenRun_ite] <;> rfl

theorem execErrorPath_encBlind (v : FramingError) : EncBlind (execErrorPath v) := by
  intro e o s
  cases v <;> simp only [execErrorPath, thenRun_ite] <;> rfl

theorem runClass_encBlind (c : FrameClass) (h : Header) : EncBlind (runClass c h) := by
  intro e o s
  simp only [runClass, thenRun_ite]
  rfl

theorem execReadExact_encBlind (n : Half) : EncBlind (execReadExact n) := by
  intro e o s
  simp only [execReadExact, thenRun_ite]
  rfl

theorem execValidate_encBlind : EncBlind execValidate := by
  intro e o s
  simp only [execValidate, thenRun_ite]
  have hbuf : (withEnc e o s).rx.hdrBuf = s.rx.hdrBuf := rfl
  rw [hbuf]
  cases decodeHeader (Memory.bytes s.rx.hdrBuf) <;> rfl

theorem nextArm_withEnc (e : EncRegs) (o : List Beat) (s : State) :
    nextArm (withEnc e o s) = withEnc e o (nextArm s) := by
  simp only [nextArm, apply_ite (withEnc e o)]
  rfl

theorem execNext_encBlind : EncBlind execNext := by
  intro e o s
  simp only [execNext, thenRun_ite, nextArm_withEnc]
  rfl

/-- Each operation of RX and each function row. -/
theorem exec_encBlind {i : Instr} (hreset : i ≠ .reset) (hcmd : ∀ f, i ≠ .encCmd f) (hbyte : i ≠ .encByte) :
    EncBlind (exec i) := by
  cases i with
  | reset => exact absurd rfl hreset
  | encCmd f => exact absurd rfl (hcmd f)
  | encByte => exact absurd rfl hbyte
  | syn h | ack h | fin h | data h => exact runClass_encBlind _ h
  | recvHeader v => exact execRecvHeader_encBlind v
  | readPayload v => exact execReadPayload_encBlind v
  | errorPath v => exact execErrorPath_encBlind v
  | readExact n => exact execReadExact_encBlind n
  | validate => exact execValidate_encBlind
  | next => exact execNext_encBlind
  | encode u => exact fun _ _ _ => rfl
  | badsum h | shorthdr bs | checksum bs | decode bs | openSession | dispatch | respond | abort =>
    intro e o s
    simp only [exec, execBadsum, execShorthdr, execChecksum, execDecode, execOpen, execDispatch, execRespond, execAbort,
      thenRun_ite]
    rfl

/-- Replacing ENC by itself is no replacement, so an operation blind to ENC leaves ENC as it is. -/
theorem EncBlind.frame {f : State → Host.Outcome State Fault Refusal} (hf : EncBlind f) (h : f s = .next t) :
    t = withEnc s.enc s.env.txOut t := by
  have hself := hf s.enc s.env.txOut s
  rw [withEnc_self, h] at hself
  simpa using hself

/-- An operation of ENC replaces ENC by values that depend on ENC alone. -/
theorem exec_enc_withEnc {j : Instr} (hj : (∃ f, j = .encCmd f) ∨ j = .encByte) (e : EncRegs) (o : List Beat) :
    ∃ e' o', ∀ s, exec j (withEnc e o s) = .next (withEnc e' o' s) := by
  by_cases hidle : e.txIdx = 14 <;> obtain ⟨f, rfl⟩ | rfl := hj
  · exact ⟨{ txBuf := Memory.store [] 0 (encodeFields f), txIdx := 0 }, o, fun s => if_pos hidle⟩
  · exact ⟨e, o, fun s => if_pos hidle⟩
  · exact ⟨e, o, fun s => if_neg hidle⟩
  · exact ⟨{ e with txIdx := e.txIdx + 1 },
      o ++ [Beat.mk (Memory.read e.txBuf e.txIdx.val) (decide (e.txIdx.val = 13))], fun s => if_neg hidle⟩

end Sys2Proof.Machine

open Sys2Proof.Machine in
/-- Settles O43: RX's operation is blind to ENC, and ENC's operation, run before it or after it, makes the same
replacement of ENC. -/
theorem unitsCommute : Obligations.UnitsCommute := by
  intro i j s hreset hcmd hbyte hj
  have hblind := exec_encBlind hreset hcmd hbyte
  obtain ⟨e, o, henc⟩ := exec_enc_withEnc hj s.enc s.env.txOut
  have hexec : exec j s = .next (withEnc e o s) := henc s
  rw [hexec, thenRun_next, hblind e o s]
  cases hi : exec i s with
  | next t =>
    have ht := hblind.frame hi
    rw [thenRun_next, thenRun_next, ht]
    exact henc t
  | fault r => rfl
  | refused r => rfl

end

section
/-! PROOFS. The encodings: which row the bytes of a header decode to, that the decoder undoes the encoder on every
well-formed instruction, and that the operation STATE selects is the row of the header RX holds (spec 30_encoding.md
R90, R95, R100 to R103, R112). -/

namespace Sys2Proof.Machine

variable {s : State}

/-! ## The row of a header of each length (R100, R102, R103) -/

theorem decodeHeaderWord_short {bs : List Byte} (h1 : 1 ≤ bs.length) (h13 : bs.length ≤ 13) :
    decodeHeaderWord bs = .instr (.shorthdr bs) := by
  have h0 : bs.length ≠ 0 := by omega
  have h14 : bs.length < 14 := by omega
  simp only [decodeHeaderWord, h0, h14, if_false, if_true]

theorem decodeHeaderWord_right {bs : List Byte} (h : bs.length = 14) (hc : checksumRight bs = true) :
    decodeHeaderWord bs = .instr (classInstr (classOf (headerOfBytes bs)) (headerOfBytes bs)) := by
  simp [decodeHeaderWord, h, hc]

theorem decodeHeaderWord_wrong {bs : List Byte} (h : bs.length = 14) (hc : checksumRight bs = false) :
    decodeHeaderWord bs = .instr (.badsum (headerOfBytes bs)) := by
  simp [decodeHeaderWord, h, hc]

theorem classInstr_ne_badsum (c : FrameClass) (h x : Header) : classInstr c h ≠ .badsum x := by
  cases c <;> exact Instr.noConfusion

/-- What fourteen bytes that decode to BADSUM say. -/
theorem decodeHeaderWord_eq_badsum {bs : List Byte} {h : Header} (hl : bs.length = 14)
    (hd : decodeHeaderWord bs = .instr (.badsum h)) : checksumRight bs = false ∧ h = headerOfBytes bs := by
  cases hc : checksumRight bs with
  | false =>
    rw [decodeHeaderWord_wrong hl hc] at hd
    exact ⟨rfl, (Instr.badsum.inj (Decoded.instr.inj hd)).symm⟩
  | true =>
    rw [decodeHeaderWord_right hl hc] at hd
    exact absurd (Decoded.instr.inj hd) (classInstr_ne_badsum _ _ _)

/-! ## Header rows from their own words (R90, R100, R102) -/

theorem decode_class_word {c : FrameClass} {h : Header} (hw : wellFormedClass c h = true) :
    decode ⟨.header, headerBytes h⟩ = .instr (classInstr c h) := by
  obtain ⟨hc, hclass⟩ : checksumRight (headerBytes h) = true ∧ classOf h = c := by
    simpa [wellFormedClass] using hw
  have hd := decodeHeaderWord_right (headerBytes_length h) hc
  rwa [headerOfBytes_headerBytes, hclass] at hd

theorem decode_badsum_word {h : Header} (hc : checksumRight (headerBytes h) = false) :
    decode ⟨.header, headerBytes h⟩ = .instr (.badsum h) := by
  have hd := decodeHeaderWord_wrong (headerBytes_length h) hc
  rwa [headerOfBytes_headerBytes] at hd

/-! ## Operand layouts (R91, R95, R112) -/

theorem decode_checksum_word {bs : List Byte} (h : bs.length = 13) :
    decode ⟨.checksumFunction, bs⟩ = .instr (.checksum bs) :=
  if_pos h

theorem decode_encode_word {t : IntTuple} (h : firstMisfit t = none) :
    decode ⟨.encodeFunction, fieldBytes (narrow t)⟩ = .instr (.encode t) := by
  simp [decode, fieldsOfBytes_fieldBytes, widen_narrow h]

theorem decode_decode_word {bs : List Byte} (h : bs.length ≤ 14) :
    decode ⟨.decodeFunction, bs⟩ = .instr (.decode bs) :=
  if_pos h

theorem decode_readExact_word (n : Half) : decode ⟨.readExactFunction, spell 2 n.toNat⟩ = .instr (.readExact n) := by
  have hv : beValue (spell 2 n.toNat) = n.toNat := beValue_spell 2 n.isLt
  simp only [decode, spell_length, if_true, hv, BitVec.ofNat_toNat, BitVec.setWidth_eq]

theorem decode_encCmd_word (f : FieldTuple) : decode ⟨.encPort, fieldBytes f⟩ = .instr (.encCmd f) := by
  simp [decode, fieldsOfBytes_fieldBytes]

/-! ## One checksum byte (R97, R102) -/

theorem exists_decodeHeader_fields_iff {bs : List Byte} (h : bs.length = 14) :
    (∃ x, decodeHeader bs = .fields x) ↔ checksumRight bs = true :=
  ⟨fun ⟨_, hd⟩ => (decodeHeader_fields hd).2.1, fun hc => ⟨_, decodeHeader_right h hc⟩⟩

theorem checksumRight_append_singleton {bs : List Byte} (h : bs.length = 13) (d : Byte) :
    checksumRight (bs ++ [d]) = true ↔ d = checksum bs := by
  have htake : (bs ++ [d]).take 13 = bs := List.take_left' h
  have hlast : (bs ++ [d]).getD 13 0 = d := by simp [← h]
  rw [checksumRight, Config.ckLen, htake, hlast, beq_iff_eq, eq_comm]

/-! ## The header's rows and the operations of STATE (R169, R172, R177, R202 to R205) -/

theorem exec_classInstr (c : FrameClass) (h : Header) (s : State) : exec (classInstr c h) s = runClass c h s := by
  cases c <;> rfl

/-- DISPATCH is the class row of the header in the field registers. -/
theorem execDispatch_eq_classInstr (hs : s.rx.state = .dispatching) :
    execDispatch s = exec (classInstr (classOf s.rx.x) s.rx.x) s := by
  rw [exec_classInstr, execDispatch, runClass, if_pos hs, if_pos ⟨hs, rfl, rfl⟩]

/-- VALIDATE on a wrong checksum byte is BADSUM of the header in HDR_BUF. -/
theorem execValidate_eq_badsum (hs : s.rx.state = .validating)
    (hc : checksumRight (Memory.bytes s.rx.hdrBuf) = false) :
    execValidate s = execBadsum (headerOfBytes (Memory.bytes s.rx.hdrBuf)) s := by
  have hlen := Memory.bytes_length s.rx.hdrBuf
  have hbytes := headerBytes_headerOfBytes hlen
  rw [execValidate, if_pos hs, decodeHeader_wrong hlen hc, execBadsum, hbytes, if_pos ⟨hs, rfl, hc⟩]

theorem Memory.bytes_take_length (m : Memory) {n : Nat} (h : n ≤ 14) : ((Memory.bytes m).take n).length = n := by
  rw [List.length_take, Memory.bytes_length, min_eq_left h]

/-- RECV_HEADER at end-of-data after 1 to 13 bytes is SHORTHDR of those bytes; without end-of-data both wait. -/
theorem execRecvHeader_eos_eq_shorthdr (hs : s.rx.state = .awaitingHeader) (h1 : 1 ≤ s.rx.hdrCnt.val)
    (h13 : s.rx.hdrCnt.val ≤ 13) :
    execRecvHeader .eos s = execShorthdr ((Memory.bytes s.rx.hdrBuf).take s.rx.hdrCnt.val) s := by
  cases he : endOfData s with
  | true =>
    have h0 : s.rx.hdrCnt ≠ 0 := (ne_zero _).mpr h1
    have h14 : s.rx.hdrCnt ≠ 14 := (ne_fourteen _).mpr h13
    have hlen := Memory.bytes_take_length s.rx.hdrBuf (h13.trans (by decide))
    rw [execShorthdr, hlen, if_pos ⟨hs, rfl, h1, h13, rfl, he⟩]
    simp [execRecvHeader, hs, h0, h14, he]
  | false => rw [execRecvHeader_eos_waits h13 he, execShorthdr_waits _ he]

end Sys2Proof.Machine

open Sys2Proof Sys2Proof.Machine in
/-- Settles O1: the rows with operands each by the round trip of their layout, a header's class by its bytes; the rows
without operands are their selector. -/
theorem decodeInvertsEncode : Obligations.DecodeInvertsEncode := by
  intro i hw
  cases i with
  | syn h | ack h | fin h | data h => exact decode_class_word hw
  | badsum h => exact decode_badsum_word (by simpa [wellFormed] using hw)
  | shorthdr bs =>
    obtain ⟨h1, h13⟩ : 1 ≤ bs.length ∧ bs.length ≤ 13 := by simpa [wellFormed] using hw
    exact decodeHeaderWord_short h1 h13
  | checksum bs => exact decode_checksum_word (by simpa [wellFormed] using hw)
  | encode t => exact decode_encode_word (by simpa [wellFormed] using hw)
  | decode bs => exact decode_decode_word (of_decide_eq_true hw)
  | readExact n => exact decode_readExact_word n
  | encCmd f => exact decode_encCmd_word f
  | recvHeader e | readPayload e | errorPath e => cases e <;> rfl
  | encByte | openSession | validate | dispatch | respond | next | abort | reset => rfl

open Sys2Proof.Machine in
/-- Settles O5: the one checksum byte is the checksum of the thirteen. -/
theorem eachHeaderHasOneChecksum : Obligations.EachHeaderHasOneChecksum := by
  intro bs hl
  refine ⟨checksum bs, fun d => ?_⟩
  have hlen : (bs ++ [d]).length = 14 := by simp [hl]
  rw [exists_decodeHeader_fields_iff hlen, checksumRight_append_singleton hl]

open Sys2Proof Sys2Proof.Machine in
/-- Settles O31: the invariant ties HDR_BUF and HDR_CNT to the header that each of the three states holds, and the
decoder names that header's row. -/
theorem selectedOperationIsTheHeadersRow : Obligations.SelectedOperationIsTheHeadersRow := by
  intro s i hi
  have hlen := Memory.bytes_length s.rx.hdrBuf
  refine ⟨fun hs hd => ?dispatching, fun hs hbad hd => ?validating, fun hs hd => ?awaitingHeader⟩
  case dispatching =>
    obtain ⟨hv, -⟩ := hi.at_dispatching hs
    obtain ⟨-, hc, hx⟩ := decodeHeader_fields (hi.fields.valid_fields hv)
    have hrow := (decodeHeaderWord_right hlen hc).symm.trans hd
    rw [← hx] at hrow
    cases hrow
    exact execDispatch_eq_classInstr hs
  case validating =>
    obtain ⟨h, rfl⟩ := hbad
    obtain ⟨hc, rfl⟩ := decodeHeaderWord_eq_badsum hlen hd
    simpa only [exec] using execValidate_eq_badsum hs hc
  case awaitingHeader =>
    obtain ⟨h13, -⟩ := hi.at_awaitingHeader hs
    have hcnt := Memory.bytes_take_length s.rx.hdrBuf (h13.trans (by decide))
    obtain h0 | h1 := Nat.eq_zero_or_pos s.rx.hdrCnt.val
    · -- no bytes are no header, so no row decodes from them (R103)
      rw [h0] at hd
      cases hd
    · have hrow := decodeHeaderWord_short (hcnt.symm ▸ h1) (hcnt.symm ▸ h13)
      cases hrow.symm.trans hd
      exact execRecvHeader_eos_eq_shorthdr hs h1 h13

/-- Settles O2: the decoder runs on each of the words written out. -/
theorem specWordsDecodeToTheirRows : Obligations.SpecWordsDecodeToTheirRows := by
  unfold Obligations.SpecWordsDecodeToTheirRows
  decide

end

section
/-! PROOFS. The checksum: a sum in the ring of bytes, what it becomes when one byte is exchanged, and that a valid
header with one byte exchanged is a ChecksumError (spec 40_frame_codec.md R121 to R123). -/

namespace Sys2Proof.Machine

/-! ## The checksum as a sum of bytes (R122) -/

theorem checksum_eq_ofNat (bs : List Byte) : checksum bs = BitVec.ofNat 8 (byteSum bs) :=
  BitVec.eq_of_toNat_eq (by simp [checksum, Config.ckMod])

theorem checksum_eq_sum (bs : List Byte) : checksum bs = bs.sum := by
  rw [checksum_eq_ofNat]
  induction bs with
  | nil => rfl
  | cons b bs ih => simpa [byteSum, BitVec.ofNat_add] using ih

/-- The checksum grows by what one byte grows by (R122 d). -/
theorem checksum_set {bs : List Byte} {i : Nat} (hi : i < bs.length) (c : Byte) :
    checksum (bs.set i c) = checksum bs + (c - bs.getD i 0) := by
  rw [checksum_eq_sum, checksum_eq_sum, List.sum_set', dif_pos hi, List.getD_eq_getElem _ _ hi, neg_add_eq_sub]

/-! ## One byte of a header exchanged (R123) -/

/-- The computed sum and the stored byte move apart: an exchange among the first thirteen bytes moves the sum alone, one
of the last byte moves the stored byte alone. -/
theorem checksumRight_set_of_ne {bs : List Byte} {i : Nat} {c : Byte} (hl : bs.length = 14) (hi : i < 14)
    (hc : checksumRight bs = true) (hne : c ≠ bs.getD i 0) : checksumRight (bs.set i c) = false := by
  have hsum : checksum (bs.take 13) = bs.getD 13 0 := beq_iff_eq.mp hc
  refine beq_false_of_ne ?_
  show checksum ((bs.set i c).take 13) ≠ (bs.set i c).getD 13 0
  rw [List.take_set]
  obtain hi13 | rfl : i < 13 ∨ i = 13 := by omega
  · have hstored : (bs.set i c).getD 13 0 = bs.getD 13 0 := by simp [List.getD, hi13.ne]
    have hread : (bs.take 13).getD i 0 = bs.getD i 0 := by simp [List.getD, hi13]
    rw [checksum_set (by simp [hl, hi13]), hstored, hread, hsum, ne_eq, add_eq_left, sub_eq_zero]
    exact hne
  · have hkept : (bs.take 13).set 13 c = bs.take 13 := List.set_eq_of_length_le (by simp)
    have hstored : (bs.set 13 c).getD 13 0 = c := by simp [List.getD, hl]
    rw [hkept, hstored, hsum]
    exact hne.symm

theorem xor_bit_ne (b : Byte) {k : Nat} (hk : k < 8) : b ^^^ (1#8 <<< k) ≠ b := by
  intro h
  have hbit := congrArg (BitVec.getLsbD · k) h
  simp [hk] at hbit

end Sys2Proof.Machine

open Sys2Proof Sys2Proof.Machine in
/-- Settles O4: the checksum is the sum in the ring of bytes, which is commutative and has differences. -/
theorem checksumIsAWrappingSum : Obligations.ChecksumIsAWrappingSum := by
  refine ⟨fun bs => ?chain, fun bs bs' hperm => ?order, fun bs i d hi => ?growth⟩
  case chain => rw [checksum_eq_sum, List.sum_eq_foldl]
  case order => rw [checksum_eq_sum, checksum_eq_sum, hperm.sum_eq]
  case growth => rw [checksum_set hi, add_sub_cancel_left]

open Sys2Proof Sys2Proof.Machine in
/-- Settles O3: a flipped bit is another byte, and another byte anywhere makes the checksum wrong. -/
theorem singleBitFlipsAreDetected : Obligations.SingleBitFlipsAreDetected := by
  intro bs h i k hd hi hk
  obtain ⟨hl, hc, -⟩ := decodeHeader_fields hd
  have hwrong := checksumRight_set_of_ne hl hi hc (xor_bit_ne (bs.getD i 0) hk)
  exact ⟨_, _, decodeHeader_wrong (by simpa using hl) hwrong⟩

end

section
/-! PROOFS. The codec: Encode's field checks and its bytes as numbers, Decode's three answers and its fields as numbers,
the round trips, and the rows CHECKSUM, ENCODE and DECODE (spec 40_frame_codec.md R120 to R130). -/

namespace Sys2Proof.Machine

/-! ## The fields of a tuple by number (R124, R125) -/

/-- The value of field k, in the order of R124. -/
def fieldValue (t : IntTuple) (k : Fin 7) : Int :=
  [t.sourcePort, t.destPort, t.sequenceNumber, t.ack, t.syn, t.fin, t.payloadSize].getD k 0

/-- The width of field k (R90). -/
def fieldWidth (k : Fin 7) : Nat :=
  [16, 16, 32, 8, 8, 8, 16].getD k 0

theorem fits_iff {w : Nat} {v : Int} : fits w v = true ↔ 0 ≤ v ∧ v < (2 : Int) ^ w := by
  simp [fits]

theorem firstMisfit_eq_find? (t : IntTuple) :
    firstMisfit t = Fin.find? fun k => !fits (fieldWidth k) (fieldValue t k) := by
  simp only [firstMisfit, Fin.find?_succ, Fin.find?_zero, Bool.not_eq_true', apply_ite (Option.map Fin.succ),
    Option.map_some, Option.map_none]
  rfl

/-- The first misfit is the field that does not fit after fields that all do. -/
theorem firstMisfit_eq_some_iff {t : IntTuple} {k : Fin 7} :
    firstMisfit t = some k ↔
      fits (fieldWidth k) (fieldValue t k) = false ∧ ∀ j < k, fits (fieldWidth j) (fieldValue t j) = true := by
  rw [firstMisfit_eq_find?, Fin.find?_eq_some_iff]
  simp

/-! ## Encode's bytes as numbers (R95, R97, R124) -/

/-- The thirteen bytes of format F13 as numbers. -/
def fieldNumbers (f : FieldTuple) : List Nat :=
  let seq := f.sequenceNumber.toNat
  [f.sourcePort.toNat / 256, f.sourcePort.toNat % 256, f.destPort.toNat / 256, f.destPort.toNat % 256,
    seq / 2 ^ 24, seq / 2 ^ 16 % 256, seq / 256 % 256, seq % 256, f.ack.toNat, f.syn.toNat, f.fin.toNat,
    f.payloadSize.toNat / 256, f.payloadSize.toNat % 256]

theorem fieldBytes_toNat (f : FieldTuple) : (fieldBytes f).map BitVec.toNat = fieldNumbers f := by
  have hsp := f.sourcePort.isLt
  have hdp := f.destPort.isLt
  have hseq := f.sequenceNumber.isLt
  have hlen := f.payloadSize.isLt
  simp only [fieldBytes, spell_two, spell_four, fieldNumbers, List.cons_append, List.nil_append, List.map_cons,
    List.map_nil, BitVec.toNat_ofNat, List.cons.injEq, and_true, true_and]
  omega

theorem encodeFields_toNat (f : FieldTuple) :
    (encodeFields f).map BitVec.toNat = fieldNumbers f ++ [(fieldNumbers f).sum % 256] := by
  rw [encodeFields, List.map_append, List.map_singleton, checksum_toNat, fieldBytes_toNat]

/-- A number in range is the value of a field. -/
theorem exists_toNat_eq {w n : Nat} (h : n < 2 ^ w) : ∃ v : BitVec w, v.toNat = n :=
  ⟨.ofNatLT n h, BitVec.toNat_ofNatLT n h⟩

theorem exec_encode_widen (f : FieldTuple) (s : State) :
    exec (.encode (widen f)) s = .next (setResult (.encode (.header (encodeFields f))) s) := by
  rw [exec, execEncode, encodeHeader_widen]

/-! ## Decode's fields as numbers (R95, R127) -/

theorem be_eq {bs : List Byte} {a n : Nat} (h : a + n ≤ bs.length) :
    be bs a n = beValue ((List.range n).map fun k => bs.getD (a + k) 0) := by
  refine congrArg beValue (List.ext_getElem (by simp; omega) fun k _ hk => ?_)
  have hin : a + k < bs.length := by simp at hk; omega
  simp [hin]

/-- A 16-bit field is its two bytes (R95). -/
theorem half_of_bytes {bs : List Byte} {a : Nat} (h : a + 2 ≤ bs.length) :
    (BitVec.ofNat 16 (be bs a 2)).toNat = (bs.getD a 0).toNat * 256 + (bs.getD (a + 1) 0).toNat := by
  have := (bs.getD a 0).isLt
  have := (bs.getD (a + 1) 0).isLt
  have hbytes : (List.range 2).map (fun k => bs.getD (a + k) 0) = [bs.getD a 0, bs.getD (a + 1) 0] := rfl
  rw [be_eq h, hbytes, beValue_two, BitVec.toNat_ofNat]
  omega

/-- A 32-bit field is its four bytes (R95). -/
theorem word_of_bytes {bs : List Byte} {a : Nat} (h : a + 4 ≤ bs.length) :
    (BitVec.ofNat 32 (be bs a 4)).toNat = (bs.getD a 0).toNat * 2 ^ 24 + (bs.getD (a + 1) 0).toNat * 2 ^ 16 +
      (bs.getD (a + 2) 0).toNat * 2 ^ 8 + (bs.getD (a + 3) 0).toNat := by
  have := (bs.getD a 0).isLt
  have := (bs.getD (a + 1) 0).isLt
  have := (bs.getD (a + 2) 0).isLt
  have := (bs.getD (a + 3) 0).isLt
  have hbytes : (List.range 4).map (fun k => bs.getD (a + k) 0) =
      [bs.getD a 0, bs.getD (a + 1) 0, bs.getD (a + 2) 0, bs.getD (a + 3) 0] := rfl
  rw [be_eq h, hbytes, beValue_four, BitVec.toNat_ofNat]
  omega

theorem decodeHeader_short {bs : List Byte} (h : bs.length < 14) : decodeHeader bs = .malformedHeader bs.length :=
  if_pos h

theorem exec_decode {bs : List Byte} (h : bs.length ≤ 14) (s : State) :
    exec (.decode bs) s = .next (setResult (.decode (decodeHeader bs)) s) :=
  if_pos h

/-! ## The round trips (R130) -/

/-- Encode of the fields that Decode gives is the header decoded. -/
theorem encodeFields_headerOfBytes {bs : List Byte} (h : bs.length = 14) (hc : checksumRight bs = true) :
    encodeFields (fieldsOf (headerOfBytes bs)) = bs := by
  have hbytes := headerBytes_headerOfBytes h
  rw [← hbytes, checksumRight_headerBytes, beq_iff_eq] at hc
  rw [encodeFields, hc]
  exact hbytes

theorem fieldsOf_headerOfBytes_encodeFields (f : FieldTuple) : fieldsOf (headerOfBytes (encodeFields f)) = f := by
  rw [encodeFields, fieldsOf_headerOfBytes_append]

/-- Decode gives back the fields encoded. -/
theorem decodeHeader_encodeFields (f : FieldTuple) : ∃ h, decodeHeader (encodeFields f) = .fields h ∧ fieldsOf h = f :=
  ⟨_, decodeHeader_right (encodeFields_length f) (checksumRight_encodeFields f),
    fieldsOf_headerOfBytes_encodeFields f⟩

theorem encodeFields_injective : Function.Injective encodeFields :=
  Function.LeftInverse.injective (g := fieldsOf ∘ headerOfBytes) fieldsOf_headerOfBytes_encodeFields

end Sys2Proof.Machine

open Sys2Proof Sys2Proof.Machine in
/-- Settles O8: numbers in range are the values of a tuple at pin widths, whose encoded bytes are written out as
numbers. -/
theorem encodeSpellsTheFields : Obligations.EncodeSpellsTheFields := by
  intro sp dp seq ack syn fin len s hsp hdp hseq hack hsyn hfin hlen
  obtain ⟨sp, rfl⟩ := exists_toNat_eq hsp
  obtain ⟨dp, rfl⟩ := exists_toNat_eq hdp
  obtain ⟨seq, rfl⟩ := exists_toNat_eq hseq
  obtain ⟨ack, rfl⟩ := exists_toNat_eq hack
  obtain ⟨syn, rfl⟩ := exists_toNat_eq hsyn
  obtain ⟨fin, rfl⟩ := exists_toNat_eq hfin
  obtain ⟨len, rfl⟩ := exists_toNat_eq hlen
  refine ⟨encodeFields ⟨sp, dp, seq, ack, syn, fin, len⟩, ?bytes,
    exec_encode_widen ⟨sp, dp, seq, ack, syn, fin, len⟩ s⟩
  rw [encodeFields_toNat]
  simp [fieldNumbers, add_assoc]

open Sys2Proof Sys2Proof.Machine in
/-- Settles O9: the field named is the first that does not fit, and the fields of a tuple at pin widths all fit. -/
theorem encodeRejectsWhatDoesNotFit : Obligations.EncodeRejectsWhatDoesNotFit := by
  refine ⟨fun t s k hbelow hk => ?rejected, fun f s => ⟨_, exec_encode_widen f s⟩⟩
  have hmisfit : firstMisfit t = some k :=
    firstMisfit_eq_some_iff.mpr ⟨Bool.eq_false_iff.mpr (mt fits_iff.mp hk), fun j hj => fits_iff.mpr (hbelow j hj)⟩
  simp only [exec, execEncode, encodeHeader, hmisfit]
  rfl

open Sys2Proof Sys2Proof.Machine in
/-- Settles O10: Decode's answer for each length and each checksum, and each field as the number its bytes spell. -/
theorem decodeChecksLengthThenChecksum : Obligations.DecodeChecksLengthThenChecksum := by
  refine fun bs s => ⟨fun hl => ?short, fun hl hne => ?wrong, fun hl heq => ?right, fun hl => ?long⟩
  case short =>
    rw [exec_decode hl.le, decodeHeader_short hl]
    rfl
  case wrong =>
    have hc : checksumRight bs = false := Bool.eq_false_iff.mpr (mt (checksumRight_iff bs).mp hne)
    refine ⟨checksum (bs.take 13), checksum_toNat _, ?_⟩
    rw [exec_decode hl.le, decodeHeader_wrong hl hc]
    rfl
  case right =>
    refine ⟨headerOfBytes bs, ?_, half_of_bytes (by omega), half_of_bytes (by omega), word_of_bytes (by omega), rfl,
      rfl, rfl, half_of_bytes (by omega), rfl⟩
    rw [exec_decode hl.le, decodeHeader_right hl ((checksumRight_iff bs).mpr heq)]
    rfl
  case long => exact if_neg hl.not_ge

open Sys2Proof Sys2Proof.Machine in
/-- Settles O6: Decode of an encoded tuple gives its fields back, and Encode of the decoded fields gives the bytes
back. -/
theorem codecRoundTrip : Obligations.CodecRoundTrip := by
  refine ⟨fun t ht => ?fieldsBack, fun bs hl hc => ?bytesBack, fun t bs ht => ?valid, fun t u bs ht hu => ?injective⟩
  case fieldsBack =>
    obtain ⟨h, hd, hf⟩ := decodeHeader_encodeFields (narrow t)
    exact ⟨_, h, by rw [encodeHeader, ht], hd, by rw [hf, widen_narrow ht]⟩
  case bytesBack =>
    have hc : checksumRight bs = true := beq_iff_eq.mpr hc
    exact ⟨_, decodeHeader_right hl hc, by rw [encodeHeader_widen, encodeFields_headerOfBytes hl hc]⟩
  case valid =>
    obtain ⟨-, rfl⟩ := encodeHeader_header ht
    obtain ⟨h, hd, -⟩ := decodeHeader_encodeFields (narrow t)
    exact ⟨h, hd⟩
  case injective =>
    obtain ⟨htfit, rfl⟩ := encodeHeader_header ht
    obtain ⟨hufit, hbytes⟩ := encodeHeader_header hu
    rw [← widen_narrow htfit, ← widen_narrow hufit, encodeFields_injective hbytes]

open Sys2Proof Sys2Proof.Machine in
/-- Settles O7: the thirteen bytes are the row's guard, and the checksum's value is the sum's remainder. -/
theorem checksumRowGivesTheSum : Obligations.ChecksumRowGivesTheSum :=
  fun bs _ => ⟨fun hl => ⟨checksum bs, checksum_toNat bs, if_pos hl⟩, fun hl => if_neg hl⟩

end

section
/-! PROOFS. Unit ENC: the command, the byte step, the fourteen of them in a row, and that ENC and RX leave each other
alone (spec 40_frame_codec.md R131 to R134, 10_state.md R44). -/

namespace Sys2Proof.Machine

variable {s t : State}

/-! ## The command (R131, R133) -/

theorem execEncCmd_idle (f : FieldTuple) (h : s.enc.txIdx = 14) : execEncCmd f s = .next (loadTx f s) :=
  if_pos h

theorem execEncCmd_busy (f : FieldTuple) (h : s.enc.txIdx ≠ 14) : execEncCmd f s = .next s :=
  if_neg h

/-! ## One byte (R132) -/

/-- The beat of offset k: its byte of TX_BUF, and last at 13. -/
def txBeat (m : Memory) (k : Nat) : Beat :=
  { data := Memory.read m k, last := decide (k = 13) }

theorem execEncByte_busy (h : s.enc.txIdx.val < 14) : execEncByte s = .next (pushTx s) :=
  if_neg ((ne_fourteen _).mpr (Nat.le_of_lt_succ h))

theorem pushTx_txIdx_val (h : s.enc.txIdx.val < 14) : (pushTx s).enc.txIdx.val = s.enc.txIdx.val + 1 :=
  Fin.val_add_one_of_lt' (Nat.succ_lt_succ h)

theorem txData_of_busy (h : s.enc.txIdx.val < 14) : txData s = Memory.read s.enc.txBuf s.enc.txIdx.val := by
  simp [txData, txValid, h]

theorem txLast_eq (s : State) : txLast s = decide (s.enc.txIdx.val = 13) :=
  decide_eq_decide.mpr Fin.ext_iff

/-! ## Bytes in a row (R132) -/

/-- n byte steps put the n next bytes of TX_BUF on the encoder output and move TX_IDX on by n. -/
theorem execAll_encByte (n : Nat) : ∀ {s : State}, s.enc.txIdx.val + n ≤ 14 →
    ∃ t, execAll (List.replicate n .encByte) s = .next t ∧ t.rx = s.rx ∧ t.enc.txIdx.val = s.enc.txIdx.val + n ∧
      t.env.txOut = s.env.txOut ++ (List.range' s.enc.txIdx.val n).map (txBeat s.enc.txBuf) := by
  induction n with
  | zero => exact fun {s} _ => ⟨s, rfl, rfl, rfl, by simp⟩
  | succ n ih =>
    intro s hn
    have hbusy : s.enc.txIdx.val < 14 := by omega
    have hidx := pushTx_txIdx_val hbusy
    obtain ⟨t, hrun, hrx, htx, hout⟩ := ih (s := pushTx s) (by omega)
    refine ⟨t, ?run, hrx, by omega, ?out⟩
    case run => rw [List.replicate_succ, execAll, exec, execEncByte_busy hbusy, thenRun_next, hrun]
    case out => rw [hout, hidx, pushTx_txOut, pushTx_txBuf, List.range'_succ, List.map_cons, List.append_assoc]; rfl

/-- The beats of a whole buffer: its bytes in offset order, and last on the fourteenth. -/
theorem txBeats_data (m : Memory) : ((List.range' 0 14).map (txBeat m)).map Beat.data = Memory.bytes m :=
  List.map_map

theorem txBeats_last (m : Memory) :
    ((List.range' 0 14).map (txBeat m)).map Beat.last = List.replicate 13 false ++ [true] := rfl

/-! ## Neither unit changes the other (R44, R133) -/

theorem exec_enc_rx {i : Instr} (h : exec i s = .next t) (hi : (∃ f, i = .encCmd f) ∨ i = .encByte) : t.rx = s.rx := by
  obtain ⟨f, rfl⟩ | rfl := hi
  · obtain ⟨-, rfl⟩ | ⟨-, rfl⟩ := execEncCmd_next h <;> rfl
  · obtain ⟨-, rfl⟩ | ⟨-, rfl⟩ := execEncByte_next h <;> rfl

theorem exec_rx_enc {i : Instr} (h : exec i s = .next t) (hreset : i ≠ .reset) (hcmd : ∀ f, i ≠ .encCmd f)
    (hbyte : i ≠ .encByte) : t.enc = s.enc ∧ t.env.txOut = s.env.txOut := by
  have ht := (exec_encBlind hreset hcmd hbyte).frame h
  exact ⟨ht ▸ rfl, ht ▸ rfl⟩

/-- Only a command to an idle ENC, or RESET, writes TX_BUF. -/
theorem exec_keeps_txBuf {i : Instr} (h : exec i s = .next t) (hreset : i ≠ .reset) (hbusy : s.enc.txIdx.val < 14) :
    t.enc.txBuf = s.enc.txBuf := by
  by_cases hbyte : i = .encByte
  · subst hbyte
    obtain ⟨-, rfl⟩ | ⟨-, rfl⟩ := execEncByte_next h <;> rfl
  by_cases hcmd : ∃ f, i = .encCmd f
  · obtain ⟨f, rfl⟩ := hcmd
    rw [exec, execEncCmd_busy f ((ne_fourteen _).mpr (Nat.le_of_lt_succ hbusy))] at h
    cases h
    rfl
  · exact congrArg EncRegs.txBuf (exec_rx_enc h hreset (not_exists.mp hcmd) hbyte).1

end Sys2Proof.Machine

open Sys2Proof.Machine in
/-- Settles O13: the next state is `loadTx`, whose TX_BUF holds the encoded header in canonical form. -/
theorem encCmdLoadsTheHeader : Obligations.EncCmdLoadsTheHeader := by
  intro f s hidle
  have hwf := loadTx_wf f s
  refine ⟨loadTx f s, execEncCmd_idle f hidle, loadTx_rx s f, loadTx_env s f, loadTx_txIdx s f, ?encoded, hwf,
    fun a ha => Memory.read_outside ha hwf⟩
  rw [loadTx_bytes, encodeHeader_widen]

open Sys2Proof.Machine in
/-- Settles O14: the next state is `pushTx`, and the beat it pushes is what the pins show. -/
theorem encByteSendsTheNextByte : Obligations.EncByteSendsTheNextByte := by
  intro s hbusy
  have hdata := txData_of_busy hbusy
  have hlast := txLast_eq s
  refine ⟨pushTx s, execEncByte_busy hbusy, pushTx_txIdx_val hbusy, rfl, rfl, ?env, hdata, hlast, decide_eq_true hbusy⟩
  rw [hdata, hlast]
  rfl

open Sys2Proof Sys2Proof.Machine in
/-- Settles O15: a busy ENC's command is `noStep`; the only operation that writes TX_BUF is a command to an idle ENC;
the operations of ENC keep RX, and every other one but RESET is blind to ENC. -/
theorem busyEncHoldsOffCommands : Obligations.BusyEncHoldsOffCommands := by
  refine ⟨fun f s hbusy => ?command, fun s hbusy hr => ?held, fun i s t h hreset => exec_keeps_txBuf h hreset,
    fun i s t h hreset => ⟨exec_enc_rx h, exec_rx_enc h hreset⟩⟩
  case command =>
    have hne := (ne_fourteen _).mpr (Nat.le_of_lt_succ hbusy)
    exact ⟨execEncCmd_busy f hne, Bool.eq_false_iff.mpr (mt encReady_iff.mp hne)⟩
  case held => simp [encOperation_busy hbusy, hr]

open Sys2Proof.Machine in
/-- Settles O16: the command loads TX_BUF and sets TX_IDX to 0, and fourteen byte steps from there send all of it. -/
theorem encEmitsTheWholeHeader : Obligations.EncEmitsTheWholeHeader := by
  intro f s hidle
  obtain ⟨t, hrun, hrx, hidx, hout⟩ := execAll_encByte 14 (s := loadTx f s) le_rfl
  refine ⟨t, ?run, hrx, Fin.ext hidx, encodeFields f, encodeHeader_widen f, ?data, ?last⟩
  case run => rw [execAll, exec, execEncCmd_idle f hidle, thenRun_next, hrun]
  case data =>
    have hbeats := txBeats_data (loadTx f s).enc.txBuf
    rw [loadTx_bytes] at hbeats
    rw [hout, List.map_append]
    exact congrArg _ hbeats
  case last => rw [hout, List.map_append]; rfl

end

section
/-! PROOFS. The payload reader: READ_EXACT's three endings, READ_PAYLOAD's byte steps in a row, which take the same
bytes, and ReadExact over any grouping of the stream (spec 41_payload_reader.md R150 to R155, 42_session_sequencer.md
R173 to R175). -/

namespace Sys2Proof.Machine

variable {s : State}

/-! ## One READ_PAYLOAD step (R173 to R175) -/

theorem execReadPayload_byte {b : Byte} (hs : s.rx.state = .readingPayload) (h0 : s.rx.payRem ≠ 0)
    (hb : deliversByte b s = true) : execReadPayload (.byte b) s = .next (passPayload [b] (consume 1 s)) :=
  (if_pos hs).trans (if_pos ⟨h0, hb⟩)

theorem execReadPayload_done (hs : s.rx.state = .readingPayload) (h0 : s.rx.payRem = 0) :
    execReadPayload .done s = .next (enterState .dispatching s) :=
  (if_pos hs).trans (if_pos h0)

/-- The payload ends short: SHORT is set and the sequencer goes on (R175, R153). -/
def endShort (s : State) : State :=
  enterState .dispatching { s with rx := { s.rx with short := true } }

theorem execReadPayload_eos (hs : s.rx.state = .readingPayload) (h0 : s.rx.payRem ≠ 0) (he : endOfData s = true) :
    execReadPayload .eos s = .next (endShort s) :=
  (if_pos hs).trans (if_pos ⟨h0, he⟩)

/-! ## The bytes taken (R150, R152) -/

/-- Bytes of the stream go to the payload output, one after another. -/
def takePayload (bs : List Byte) (s : State) : State :=
  passPayload bs (consume bs.length s)

theorem takePayload_nil (s : State) : takePayload [] s = s := by
  simp [takePayload, passPayload, consume]

theorem takePayload_cons (b : Byte) (bs : List Byte) (s : State) :
    takePayload (b :: bs) s = takePayload bs (takePayload [b] s) := by
  simp [takePayload, passPayload, consume, BitVec.ofNat_add, sub_sub, add_assoc, Nat.add_comm]

@[simp] theorem takePayload_state (bs : List Byte) (s : State) : (takePayload bs s).rx.state = s.rx.state := rfl

@[simp] theorem takePayload_stream (bs : List Byte) (s : State) :
    (takePayload bs s).env.stream = { s.env.stream with bytes := s.env.stream.bytes.drop bs.length } := rfl

/-- With no more bytes than are missing, PAY_REM counts down without a wrap. -/
theorem takePayload_payRem_toNat {bs : List Byte} (h : bs.length ≤ s.rx.payRem.toNat) :
    (takePayload bs s).rx.payRem.toNat = s.rx.payRem.toNat - bs.length := by
  simp only [takePayload, passPayload_payRem, consume_rx]
  bv_omega

/-- READ_PAYLOAD's byte steps take any front part of the stream that is still missing. -/
theorem execAll_readPayload_bytes (bs : List Byte) : ∀ {s : State}, s.rx.state = .readingPayload →
    bs.length ≤ s.rx.payRem.toNat → bs <+: s.env.stream.bytes →
    execAll (bs.map fun b => .readPayload (.byte b)) s = .next (takePayload bs s) := by
  induction bs with
  | nil => exact fun {s} _ _ _ => congrArg _ (takePayload_nil s).symm
  | cons b bs ih =>
    intro s hs hlen ⟨rest, hrest⟩
    rw [List.length_cons] at hlen
    have h0 : s.rx.payRem ≠ 0 := fun h => by simp [h] at hlen
    have hstep : execReadPayload (.byte b) s = .next (takePayload [b] s) :=
      execReadPayload_byte hs h0 (deliversByte_iff.mpr ⟨bs ++ rest, hrest.symm⟩)
    have hrem : (takePayload [b] s).rx.payRem.toNat = s.rx.payRem.toNat - 1 :=
      takePayload_payRem_toNat (Nat.le_trans (Nat.le_add_left 1 _) hlen)
    have hfront : bs <+: (takePayload [b] s).env.stream.bytes := ⟨rest, by simp [← hrest]⟩
    rw [List.map_cons, execAll, exec, hstep, thenRun_next, ih (s := takePayload [b] s) hs (by omega) hfront,
      ← takePayload_cons]

/-! ## What the stream has of the missing bytes (R150, R152) -/

/-- The bytes still missing, as far as the stream has them. -/
def missingBytes (s : State) : List Byte :=
  s.env.stream.bytes.take s.rx.payRem.toNat

theorem missingBytes_length_le (s : State) : (missingBytes s).length ≤ s.rx.payRem.toNat :=
  List.length_take_le _ _

theorem drop_missingBytes_length (s : State) :
    s.env.stream.bytes.drop (missingBytes s).length = s.env.stream.bytes.drop s.rx.payRem.toNat :=
  List.drop_eq_drop_iff.mpr (by simp [missingBytes])

theorem missingBytes_length_eq_iff :
    (missingBytes s).length = s.rx.payRem.toNat ↔ s.rx.payRem.toNat ≤ s.env.stream.bytes.length := by
  simp [missingBytes]

/-- PAY_REM is used up exactly when the stream has all the missing bytes. -/
theorem takePayload_missingBytes_payRem_eq_zero_iff :
    (takePayload (missingBytes s) s).rx.payRem = 0 ↔ s.rx.payRem.toNat ≤ s.env.stream.bytes.length := by
  have hle := missingBytes_length_le s
  have hrem := takePayload_payRem_toNat hle
  rw [← missingBytes_length_eq_iff, ← BitVec.toNat_inj, hrem]
  exact Nat.sub_eq_zero_iff_le.trans hle.ge_iff_eq

/-! ## READ_EXACT's three endings (R153 to R155) -/

section
variable (hs : s.rx.state = .readingPayload)
include hs

theorem execReadExact_whole (h : s.rx.payRem.toNat ≤ s.env.stream.bytes.length) :
    execReadExact s.rx.payRem s = .next (setResult (.read (missingBytes s))
      (enterState .dispatching (takePayload (missingBytes s) s))) :=
  (if_pos ⟨hs, rfl⟩).trans (if_pos (missingBytes_length_eq_iff.mpr h))

theorem execReadExact_short (h : s.env.stream.bytes.length < s.rx.payRem.toNat) (he : s.env.stream.ends = true) :
    execReadExact s.rx.payRem s =
      .next (setResult (.read (missingBytes s)) (endShort (takePayload (missingBytes s) s))) :=
  (if_pos ⟨hs, rfl⟩).trans <|
    (if_neg (mt missingBytes_length_eq_iff.mp (Nat.not_le.mpr h))).trans (if_pos he)

theorem execReadExact_blocks (h : s.env.stream.bytes.length < s.rx.payRem.toNat) (he : s.env.stream.ends = false) :
    execReadExact s.rx.payRem s = .next (takePayload (missingBytes s) s) :=
  (if_pos ⟨hs, rfl⟩).trans <|
    (if_neg (mt missingBytes_length_eq_iff.mp (Nat.not_le.mpr h))).trans (if_neg (Bool.eq_false_iff.mp he))

end

/-! ## ReadExact over chunks (R150, R151) -/

theorem readExactChunks_zero (chunks : List (List Byte)) : readExactChunks chunks 0 = ([], chunks) := by
  cases chunks with
  | nil => rfl
  | cons c cs => rw [readExactChunks, if_pos rfl]

/-- Where every read delivers something, the grouping does not show. -/
theorem readExactChunks_flatten (chunks : List (List Byte)) : ∀ n, (∀ c ∈ chunks, c ≠ []) →
    (readExactChunks chunks n).1 = chunks.flatten.take n ∧
      (readExactChunks chunks n).2.flatten = chunks.flatten.drop n := by
  induction chunks with
  | nil => simp [readExactChunks]
  | cons c cs ih =>
    intro n hne
    obtain ⟨hc, hcs⟩ := List.forall_mem_cons.mp hne
    obtain ⟨htake, hdrop⟩ := ih (n - c.length) hcs
    rw [readExactChunks, if_neg hc, List.flatten_cons, List.take_append, List.drop_append]
    split_ifs with h0 hle
    · simp [h0]
    · rw [List.take_of_length_le hle, List.drop_of_length_le hle]
      exact ⟨congrArg (c ++ ·) htake, hdrop⟩
    · have hsub : n - c.length = 0 := by omega
      simp [hsub]

end Sys2Proof.Machine

open Sys2Proof.Machine in
/-- Settles O26: each ending is one equation of READ_EXACT; where the stream has all n bytes, PAY_REM is used up. -/
theorem readExactTakesWhatThereIs : Obligations.ReadExactTakesWhatThereIs := by
  rintro _ s hs rfl got rx env
  have henv : env = (takePayload (missingBytes s) s).env := by
    simp only [env, ← drop_missingBytes_length]
    rfl
  refine ⟨fun h => ?whole, fun h he => ?short, fun h he => ?blocks⟩
  case whole =>
    have h0 := takePayload_missingBytes_payRem_eq_zero_iff.mpr h
    rw [exec, execReadExact_whole hs h, ← h0, henv]
    rfl
  case short =>
    rw [exec, execReadExact_short hs h he, henv]
    rfl
  case blocks =>
    rw [exec, execReadExact_blocks hs h he, henv]
    rfl

open Sys2Proof.Machine in
/-- Settles O27: the byte steps take what READ_EXACT takes, and PAY_REM then says which ending step there is. -/
theorem readExactIsReadPayloadFused : Obligations.ReadExactIsReadPayloadFused := by
  rintro _ s hs rfl
  have hbytes := execAll_readPayload_bytes (missingBytes s) hs (missingBytes_length_le s) (List.take_prefix _ _)
  have hstate := (takePayload_state (missingBytes s) s).trans hs
  have hzero := takePayload_missingBytes_payRem_eq_zero_iff (s := s)
  rw [execAll_append, ← missingBytes, hbytes, thenRun_next]
  obtain h | h := le_or_gt s.rx.payRem.toNat s.env.stream.bytes.length
  · have hdone := execReadPayload_done hstate (hzero.mpr h)
    rw [if_pos h, execAll, exec, exec, hdone]
    exact ⟨_, _, execReadExact_whole hs h, rfl, rfl⟩
  · rw [if_neg (Nat.not_le.mpr h)]
    cases he : s.env.stream.ends with
    | true =>
      have hempty : (takePayload (missingBytes s) s).env.stream.bytes = [] := by
        rw [takePayload_stream, drop_missingBytes_length, List.drop_of_length_le h.le]
      have heos := execReadPayload_eos hstate (mt hzero.mp (Nat.not_le.mpr h)) (endOfData_at_end hempty he)
      rw [if_pos rfl, execAll, exec, exec, heos]
      exact ⟨_, _, execReadExact_short hs h he, rfl, rfl⟩
    | false => exact ⟨_, _, execReadExact_blocks hs h he, rfl, rfl⟩

open Sys2Proof.Machine in
/-- Settles O28: by induction on the chunks, ReadExact takes and drops in their concatenation; n = 0 is the loop's first
test. -/
theorem readExactIgnoresGrouping : Obligations.ReadExactIgnoresGrouping := by
  intro chunks n hne
  obtain ⟨htake, hdrop⟩ := readExactChunks_flatten chunks n hne
  exact ⟨htake, hdrop, congrArg Prod.snd (readExactChunks_zero chunks)⟩

end

section
/-! PROOFS. The sequencer, operation by operation: what each step leads to where its condition holds, and from these and
the inversions of Laws/Exec.lean the transition table of STATE, the silent peer and the closed RX (spec
42_session_sequencer.md R166 to R184). -/

namespace Sys2Proof.Machine

variable {s t : State}

/-! ## OPEN and RECV_HEADER (R166 to R169) -/

/-- A session just opened: the registers of `clearFrame`, no cause, and RX_POS at 0 (R42, R26). -/
def openedSession (s : State) : State :=
  { s with
    rx := { (clearFrame s).rx with termCause := .none, state := .awaitingHeader }
    env := { s.env with rxPos := 0 } }

theorem execOpen_closed (hs : s.rx.state = .terminated) : execOpen s = .next (openedSession s) :=
  if_pos hs

theorem execOpen_waits (hs : s.rx.state ≠ .terminated) : execOpen s = .next s :=
  if_neg hs

section
variable (hs : s.rx.state = .awaitingHeader)
include hs

theorem execRecvHeader_byte {b : Byte} (hc : s.rx.hdrCnt.val ≤ 13) (hb : deliversByte b s = true) :
    execRecvHeader (.byte b) s = .next (collectHeaderByte b (consume 1 s)) := by
  simp [execRecvHeader, hs, (ne_fourteen _).mpr hc, hb]

theorem execRecvHeader_peerClosed (hc : s.rx.hdrCnt.val = 0) (he : endOfData s = true) :
    execRecvHeader .eos s = .next (terminate .peerClosed s) := by
  have h0 : s.rx.hdrCnt = 0 := Fin.ext hc
  simp [execRecvHeader, hs, h0, he]

theorem execRecvHeader_shortHeader (h1 : 1 ≤ s.rx.hdrCnt.val) (h13 : s.rx.hdrCnt.val ≤ 13)
    (he : endOfData s = true) : execRecvHeader .eos s = .next (raiseFraming .malformedHeader s) := by
  simp [execRecvHeader, hs, (ne_zero _).mpr h1, (ne_fourteen _).mpr h13, he]

end

theorem hdrCnt_add_one_val {c : Fin 15} (h : c.val ≤ 13) : (c + 1).val = c.val + 1 :=
  Fin.val_add_one_of_lt' (Nat.succ_lt_succ (Nat.lt_succ_of_le h))

/-! ## VALIDATE, DISPATCH, RESPOND and NEXT (R171, R172, R177 to R179) -/

theorem execValidate_right (hs : s.rx.state = .validating) (hr : checksumRight (Memory.bytes s.rx.hdrBuf) = true) :
    execValidate s = .next (loadFields (headerOfBytes (Memory.bytes s.rx.hdrBuf)) s) := by
  rw [execValidate, if_pos hs, decodeHeader_right (Memory.bytes_length _) hr]

theorem execValidate_wrong (hs : s.rx.state = .validating) (hw : checksumRight (Memory.bytes s.rx.hdrBuf) = false) :
    execValidate s = .next (raiseFraming .checksumError s) := by
  rw [execValidate, if_pos hs, decodeHeader_wrong (Memory.bytes_length _) hw]

theorem execDispatch_dispatching (hs : s.rx.state = .dispatching) :
    execDispatch s = .next (startResponse (.ofClass (classOf s.rx.x)) s) :=
  if_pos hs

section
variable (hs : s.rx.state = .responding)
include hs

theorem execRespond_byte (hl : s.rx.respIdx.toNat < respLen s.rx.respCode s.rx.x.payloadSize) :
    execRespond s = .next (pushResponse s) :=
  (if_pos hs).trans (if_pos hl)

theorem execNext_sent (hl : s.rx.respIdx.toNat = respLen s.rx.respCode s.rx.x.payloadSize)
    (h0 : s.rx.respCode ≠ .none) : execNext s = .next (nextArm s) :=
  (if_pos hs).trans <| (if_neg hl.not_lt).trans (if_pos ⟨hl, h0⟩)

end

/-- No response is long enough for RESP_IDX to wrap (R210). -/
theorem pushResponse_respIdx_toNat (hl : s.rx.respIdx.toNat < respLen s.rx.respCode s.rx.x.payloadSize) :
    (pushResponse s).rx.respIdx.toNat = s.rx.respIdx.toNat + 1 := by
  have hmax := respLen_le s.rx.respCode s.rx.x.payloadSize
  have hone : (1 : BitVec 8).toNat = 1 := rfl
  rw [pushResponse_respIdx, BitVec.toNat_add]
  omega

/-! ## The response port and the payload port (R46, R48) -/

theorem respValid_of_responding (hs : s.rx.state = .responding)
    (hl : s.rx.respIdx.toNat < respLen s.rx.respCode s.rx.x.payloadSize) : respValid s = true := by
  rw [respValid, hs]
  exact decide_eq_true hl

theorem respData_of_valid (h : respValid s = true) :
    respData s = (respBytes s.rx.respCode s.rx.x.payloadSize).getD s.rx.respIdx.toNat 0 :=
  if_pos h

theorem respLast_of_responding (hs : s.rx.state = .responding) :
    respLast s = decide (s.rx.respIdx.toNat + 1 = respLen s.rx.respCode s.rx.x.payloadSize) := by
  rw [respLast, hs]
  rfl

theorem inReady_of_pending (hs : s.rx.state = .readingPayload) (h0 : s.rx.payRem ≠ 0) :
    inReady s = s.env.pins.payReady := by
  rw [inReady, payloadPending, hs, bne_iff_ne.mpr h0]
  rfl

/-! ## NEXT's arms (R180 to R182) -/

theorem nextArm_errMalformed (h : s.rx.respCode = .errMalformed) : nextArm s = terminate .errMalformed s :=
  if_pos h

theorem nextArm_errChecksum (h : s.rx.respCode = .errChecksum) : nextArm s = terminate .errChecksum s := by
  simp [nextArm, h]

section
variable (h1 : s.rx.respCode ≠ .errMalformed) (h2 : s.rx.respCode ≠ .errChecksum)
include h1 h2

theorem nextArm_fin (hf : isSet s.rx.x.finFlag = true) : nextArm s = terminate .fin s :=
  (if_neg h1).trans <| (if_neg h2).trans (if_pos hf)

theorem nextArm_continues (hf : isSet s.rx.x.finFlag = false) :
    nextArm s = enterState .awaitingHeader (clearFrame s) :=
  (if_neg h1).trans <| (if_neg h2).trans (if_neg (Bool.eq_false_iff.mp hf))

end

theorem isSet_iff {f : Byte} : isSet f = true ↔ f = 1 :=
  beq_iff_eq

/-- The response code of DISPATCH, by the priority of the flags (R201, R32). -/
theorem ofClass_classOf (h : Header) :
    RespCode.ofClass (classOf h) = if h.synFlag = 1 then .syn else if h.ackFlag = 1 then .ack
      else if h.finFlag = 1 then .fin else .data := by
  simp only [classOf, classify, isSet_iff, apply_ite RespCode.ofClass]
  rfl

/-! ## ABORT and the rows of the error path (R229, R235, R102, R103) -/

theorem execAbort_open (hs : s.rx.state ≠ .terminated) : execAbort s = .next (terminate .fault s) :=
  if_neg hs

theorem execErrorPath_malformedHeader (hs : s.rx.state = .awaitingHeader) (h1 : 1 ≤ s.rx.hdrCnt.val)
    (h13 : s.rx.hdrCnt.val ≤ 13) (he : endOfData s = true) :
    execErrorPath .malformedHeader s = .next (raiseFraming .malformedHeader s) :=
  if_pos ⟨hs, (ne_zero _).mpr h1, (ne_fourteen _).mpr h13, he⟩

theorem execErrorPath_checksumError (hs : s.rx.state = .validating)
    (hw : checksumRight (Memory.bytes s.rx.hdrBuf) = false) :
    execErrorPath .checksumError s = .next (raiseFraming .checksumError s) :=
  if_pos ⟨hs, hw⟩

/-! ## The transition table (R184) -/

theorem execRecvHeader_arc {e : StreamEvent} (h : execRecvHeader e s = .next t) :
    t.rx.state = s.rx.state ∨ Arc (.recvHeader e) s t.rx.state := by
  obtain rfl | ⟨hs, ⟨b, rfl, hc, hb, rfl⟩ | ⟨rfl, h0, he, rfl⟩ | ⟨rfl, h0, h14, he, rfl⟩⟩ := execRecvHeader_next h
  · exact .inl rfl
  · by_cases hlast : s.rx.hdrCnt + 1 = 14
    · rw [collectHeaderByte_state, consume_rx, if_pos hlast]
      exact .inr (.lastHeaderByte hs ((add_one_eq_fourteen _).mp hlast) hb)
    · exact .inl (if_neg hlast)
  · exact .inr (.peerClosed hs (congrArg Fin.val h0) he)
  · exact .inr (.shortHeader hs ((ne_zero _).mp h0) ((ne_fourteen _).mp h14) he)

theorem execReadPayload_arc {e : PayloadEvent} (h : execReadPayload e s = .next t) :
    t.rx.state = s.rx.state ∨ Arc (.readPayload e) s t.rx.state := by
  obtain rfl | ⟨hs, ⟨b, rfl, h0, hb, rfl⟩ | ⟨rfl, h0, he, rfl⟩ | ⟨rfl, h0, rfl⟩⟩ := execReadPayload_next h
  · exact .inl rfl
  · exact .inl rfl
  · exact .inr (.payloadShort hs h0 he)
  · exact .inr (.payloadDone hs h0)

theorem execReadExact_arc {n : Half} (h : execReadExact n s = .next t) :
    t.rx.state = s.rx.state ∨ Arc (.readExact n) s t.rx.state := by
  obtain rfl | ⟨hs, rfl, ⟨hl, rfl⟩ | ⟨hl, he, u, rfl, rfl⟩ | ⟨hl, he, rfl⟩⟩ := execReadExact_next h
  · exact .inl rfl
  · exact .inr (.readWhole hs (.inl hl))
  · exact .inr (.readWhole hs (.inr he))
  · exact .inl rfl

theorem execNext_arc (h : execNext s = .next t) : t.rx.state = s.rx.state ∨ Arc .next s t.rx.state := by
  obtain rfl | ⟨hs, hl, h0, rfl⟩ := execNext_next h
  · exact .inl rfl
  obtain ⟨c, ⟨-, hc⟩ | ⟨-, hc⟩ | ⟨-, h1, h2, hf⟩, heq⟩ | ⟨h1, h2, hf, heq⟩ := nextArm_cases s <;> rw [heq]
  · exact .inr (.errorAnswered hs hl (.inl hc))
  · exact .inr (.errorAnswered hs hl (.inr hc))
  · exact .inr (.finAnswered hs hl h0 h1 h2 (isSet_iff.mpr hf))
  · exact .inr (.continues hs hl h0 h1 h2 (Bool.eq_false_iff.mpr (mt isSet_iff.mp hf)))

theorem runClass_arc {c : FrameClass} {x : Header} (h : runClass c x s = .next t) :
    t.rx.state = s.rx.state ∨ Arc (classInstr c x) s t.rx.state := by
  obtain rfl | ⟨hs, rfl, hc, rfl⟩ := runClass_next h
  · exact .inl rfl
  · exact .inr (.classRow hs hc)

/-- An operation leaves STATE or follows a row of the table. -/
theorem exec_arc {i : Instr} (h : exec i s = .next t) : t.rx.state = s.rx.state ∨ Arc i s t.rx.state := by
  cases i with
  | syn x => exact runClass_arc (c := .syn) h
  | ack x => exact runClass_arc (c := .ack) h
  | fin x => exact runClass_arc (c := .fin) h
  | data x => exact runClass_arc (c := .data) h
  | recvHeader e => exact execRecvHeader_arc h
  | readPayload e => exact execReadPayload_arc h
  | readExact n => exact execReadExact_arc h
  | next => exact execNext_arc h
  | badsum x =>
    obtain rfl | ⟨hs, hb, hw, rfl⟩ := execBadsum_next h
    · exact .inl rfl
    · exact .inr (.badChecksumRow hs hb hw)
  | shorthdr bs =>
    obtain rfl | ⟨hs, hc, h1, h13, hb, he, rfl⟩ := execShorthdr_next h
    · exact .inl rfl
    · exact .inr (.shortHeaderRow hs h1 h13 hc hb he)
  | openSession =>
    obtain rfl | ⟨hs, rfl⟩ := execOpen_next h
    · exact .inl rfl
    · exact .inr (.openSession hs)
  | validate =>
    obtain rfl | ⟨hs, ⟨hr, rfl⟩ | ⟨hw, rfl⟩⟩ := execValidate_next (s := s) h
    · exact .inl rfl
    · exact .inr (.validated hs hr)
    · exact .inr (.badChecksum hs hw)
  | dispatch =>
    obtain rfl | ⟨hs, rfl⟩ := execDispatch_next h
    · exact .inl rfl
    · exact .inr (.dispatched hs)
  | errorPath e =>
    obtain rfl | ⟨rfl, ⟨rfl, hs, h0, h14, he⟩ | ⟨rfl, hs, hw⟩⟩ := execErrorPath_next h
    · exact .inl rfl
    · exact .inr (.raiseMalformed hs ((ne_zero _).mp h0) ((ne_fourteen _).mp h14) he)
    · exact .inr (.raiseChecksum hs hw)
  | abort =>
    obtain rfl | ⟨hs, rfl⟩ := execAbort_next h
    · exact .inl rfl
    · exact .inr (.aborted hs)
  | reset =>
    obtain rfl := execReset_next h
    exact .inr .reset
  | respond => obtain rfl | ⟨-, -, rfl⟩ := execRespond_next h <;> exact .inl rfl
  | encCmd f => obtain ⟨-, rfl⟩ | ⟨-, rfl⟩ := execEncCmd_next h <;> exact .inl rfl
  | encByte => obtain ⟨-, rfl⟩ | ⟨-, rfl⟩ := execEncByte_next h <;> exact .inl rfl
  | checksum bs => obtain ⟨-, rfl⟩ := execChecksum_next h; exact .inl rfl
  | encode u => obtain rfl := execEncode_next h; exact .inl rfl
  | decode bs => obtain ⟨-, rfl⟩ := execDecode_next h; exact .inl rfl

/-- Every row of the table is followed where its conditions hold. -/
theorem Arc.followed {i : Instr} {v : RxState} (h : Arc i s v) : ∃ t, exec i s = .next t ∧ t.rx.state = v := by
  cases h with
  | openSession hs => exact ⟨_, execOpen_closed hs, rfl⟩
  | headerByte hs hc hb =>
    have hmore : s.rx.hdrCnt + 1 ≠ 14 := mt (add_one_eq_fourteen _).mp (by omega)
    exact ⟨_, execRecvHeader_byte hs (hc.trans (by decide)) hb, (if_neg hmore).trans hs⟩
  | lastHeaderByte hs hc hb =>
    exact ⟨_, execRecvHeader_byte hs hc.le hb, if_pos ((add_one_eq_fourteen _).mpr hc)⟩
  | peerClosed hs hc he => exact ⟨_, execRecvHeader_peerClosed hs hc he, rfl⟩
  | shortHeader hs h1 h13 he => exact ⟨_, execRecvHeader_shortHeader hs h1 h13 he, rfl⟩
  | shortHeaderRow hs h1 h13 hc hb he => exact ⟨_, if_pos ⟨hs, hc, h1, h13, hb, he⟩, rfl⟩
  | raiseMalformed hs h1 h13 he => exact ⟨_, execErrorPath_malformedHeader hs h1 h13 he, rfl⟩
  | validated hs hr =>
    have h := execValidate_right hs hr
    exact ⟨_, h, rfl⟩
  | badChecksum hs hw =>
    have h := execValidate_wrong hs hw
    exact ⟨_, h, rfl⟩
  | badChecksumRow hs hb hw => exact ⟨_, if_pos ⟨hs, hb, hw⟩, rfl⟩
  | raiseChecksum hs hw => exact ⟨_, execErrorPath_checksumError hs hw, rfl⟩
  | payloadByte hs h0 hb => exact ⟨_, execReadPayload_byte hs h0 hb, hs⟩
  | payloadDone hs h0 => exact ⟨_, execReadPayload_done hs h0, rfl⟩
  | payloadShort hs h0 he => exact ⟨_, execReadPayload_eos hs h0 he, rfl⟩
  | readWhole hs h =>
    obtain hl | hl := Nat.lt_or_ge s.env.stream.bytes.length s.rx.payRem.toNat
    · exact ⟨_, execReadExact_short hs hl (h.resolve_left (Nat.not_le.mpr hl)), rfl⟩
    · exact ⟨_, execReadExact_whole hs hl, rfl⟩
  | readBlocks hs hl he => exact ⟨_, execReadExact_blocks hs hl he, hs⟩
  | dispatched hs => exact ⟨_, execDispatch_dispatching hs, rfl⟩
  | classRow hs hc => exact ⟨_, (exec_classInstr _ _ _).trans (if_pos ⟨hs, rfl, hc⟩), rfl⟩
  | respByte hs hl => exact ⟨_, execRespond_byte hs hl, hs⟩
  | errorAnswered hs hl hc =>
    obtain hc | hc := hc <;> refine ⟨_, execNext_sent hs hl (by simp [hc]), ?_⟩
    · rw [nextArm_errMalformed hc, terminate_state]
    · rw [nextArm_errChecksum hc, terminate_state]
  | finAnswered hs hl h0 h1 h2 hf =>
    exact ⟨_, execNext_sent hs hl h0, by rw [nextArm_fin h1 h2 hf, terminate_state]⟩
  | continues hs hl h0 h1 h2 hf =>
    exact ⟨_, execNext_sent hs hl h0, by rw [nextArm_continues h1 h2 hf, enterState_state]⟩
  | aborted hs => exact ⟨_, execAbort_open hs, rfl⟩
  | reset => exact ⟨_, rfl, rfl⟩

/-- The rows that lead out of AWAITING_HEADER (R170). -/
theorem Arc.leaves_awaitingHeader {i : Instr} {v : RxState} (h : Arc i s v) (hs : s.rx.state = .awaitingHeader)
    (hv : v ≠ .awaitingHeader) :
    (∃ b, i = .recvHeader (.byte b)) ∧ s.rx.hdrCnt.val = 13 ∨ i = .recvHeader .eos ∨ (∃ bs, i = .shorthdr bs) ∨
      i = .errorPath .malformedHeader ∨ i = .abort ∨ i = .reset := by
  cases h with
  | lastHeaderByte _ hc _ => exact .inl ⟨⟨_, rfl⟩, hc⟩
  | peerClosed | shortHeader => exact .inr (.inl rfl)
  | shortHeaderRow => exact .inr (.inr (.inl ⟨_, rfl⟩))
  | raiseMalformed => simp
  | aborted | reset => simp
  | openSession | headerByte => exact absurd rfl hv
  | continues hs' => simp [hs] at hs'
  | validated hs' | badChecksum hs' | badChecksumRow hs' | raiseChecksum hs' | payloadByte hs' | payloadDone hs'
  | payloadShort hs' | readWhole hs' | readBlocks hs' | dispatched hs' | classRow hs' | respByte hs'
  | errorAnswered hs' | finAnswered hs' => cases hs.symm.trans hs'

/-! ## The silent peer (R170) -/

theorem step_of_silent_peer (hs : s.rx.state = .awaitingHeader) (hm : s.env.moves = []) (hv : inValid s = false)
    (he : inEos s = false) (ha : s.env.pins.abort = false) (hr : s.env.pins.rst = false)
    (henc : encOperation s = none) : step s = .next s := by
  have hrx : rxOperation s = none := by simp [rxOperation_awaitingHeader ha hs, hv, he]
  rw [step_idle hm, clockEdge_running hr, hrx, henc]
  rfl

/-! ## The closed RX (R183) -/

/-- An operation whose condition has another value of STATE takes no step in TERMINATED. -/
theorem rx_eq_of_terminated {v : RxState} {p : Prop} (hs : s.rx.state = .terminated) (hv : v ≠ .terminated)
    (h : t = s ∨ s.rx.state = v ∧ p) : t.rx = s.rx := by
  obtain rfl | ⟨hs', -⟩ := h
  · rfl
  · exact absurd (hs'.symm.trans hs) hv

/-- In TERMINATED an operation of RX, OPEN and RESET apart, does not fire; ENC's and the codec's write no register of
RX. -/
theorem exec_terminated_rx {i : Instr} (hs : s.rx.state = .terminated) (h : exec i s = .next t)
    (hopen : i ≠ .openSession) (hreset : i ≠ .reset) : t.rx = s.rx := by
  cases i with
  | openSession => exact absurd rfl hopen
  | reset => exact absurd rfl hreset
  | encCmd f => exact exec_enc_rx h (.inl ⟨f, rfl⟩)
  | encByte => exact exec_enc_rx h (.inr rfl)
  | checksum bs => obtain ⟨-, rfl⟩ := execChecksum_next h; rfl
  | encode u => obtain rfl := execEncode_next h; rfl
  | decode bs => obtain ⟨-, rfl⟩ := execDecode_next h; rfl
  | syn x | ack x | fin x | data x => exact rx_eq_of_terminated hs (by decide) (runClass_next h)
  | badsum x => exact rx_eq_of_terminated hs (by decide) (execBadsum_next h)
  | shorthdr bs => exact rx_eq_of_terminated hs (by decide) (execShorthdr_next h)
  | readExact n => exact rx_eq_of_terminated hs (by decide) (execReadExact_next h)
  | recvHeader e => exact rx_eq_of_terminated hs (by decide) (execRecvHeader_next h)
  | validate => exact rx_eq_of_terminated hs (by decide) (execValidate_next (s := s) h)
  | readPayload e => exact rx_eq_of_terminated hs (by decide) (execReadPayload_next h)
  | dispatch => exact rx_eq_of_terminated hs (by decide) (execDispatch_next h)
  | respond => exact rx_eq_of_terminated hs (by decide) (execRespond_next h)
  | next => exact rx_eq_of_terminated hs (by decide) (execNext_next h)
  | errorPath e =>
    obtain rfl | ⟨-, ⟨-, hs', -⟩ | ⟨-, hs', -⟩⟩ := execErrorPath_next h
    · rfl
    · cases hs.symm.trans hs'
    · cases hs.symm.trans hs'
  | abort =>
    obtain rfl | ⟨hopen', -⟩ := execAbort_next h
    · rfl
    · exact absurd hs hopen'

/-- In TERMINATED no stream of RX moves. -/
theorem StreamMove.of_terminated (h : StreamMove s t) (hs : s.rx.state = .terminated) :
    t.env.stream = s.env.stream ∧ t.env.payOut = s.env.payOut ∧ t.env.respOut = s.env.respOut := by
  cases h with
  | kept hstream hpay hresp => exact ⟨hstream, hpay, hresp⟩
  | header hs' | payload hs' | response hs' => cases hs.symm.trans hs'
  | encoder hidx ht => subst ht; exact ⟨rfl, rfl, rfl⟩

end Sys2Proof.Machine

open Sys2Proof.Machine in
/-- Settles O17: OPEN's arm in TERMINATED keeps no register of RX, and elsewhere it is `noStep`. -/
theorem openStartsFromTheSameState : Obligations.OpenStartsFromTheSameState := by
  refine fun s => ⟨fun hs => ?closed, fun hs => ⟨execOpen_waits hs, ?ready⟩⟩
  case closed => exact execOpen_closed hs
  case ready => exact Bool.eq_false_iff.mpr (mt openReady_iff.mp hs)

open Sys2Proof.Machine in
/-- Settles O18: the next state is `collectHeaderByte`, which writes one byte of HDR_BUF. -/
theorem recvHeaderCollectsAByte : Obligations.RecvHeaderCollectsAByte := by
  intro b rest s hs hc hwf hbytes
  have hexec := execRecvHeader_byte hs hc (deliversByte_iff.mpr ⟨rest, hbytes⟩)
  have hrest : s.env.stream.bytes.drop 1 = rest := by rw [hbytes]; rfl
  refine ⟨collectHeaderByte b (consume 1 s), hexec, fun a => Memory.read_write a hwf,
    Memory.write_wf (Nat.lt_succ_of_le hc) hwf, hdrCnt_add_one_val hc, ?state, ?frame⟩
  case state => simp [add_one_eq_fourteen, hs]
  case frame => rw [← hrest]; rfl

open Sys2Proof.Machine in
/-- Settles O19: end-of-data is the event of RECV_HEADER, and HDR_CNT = 0 selects its peer-close arm. -/
theorem peerCloseAtAFrameBoundary : Obligations.PeerCloseAtAFrameBoundary :=
  fun _ hs hc hv he => execRecvHeader_peerClosed hs hc (endOfData_iff.mpr ⟨hv, he⟩)

open Sys2Proof.Machine in
/-- Settles O20: both arms are `raiseFraming`, which is three registers. -/
theorem framingErrorsEnterTheErrorPath : Obligations.FramingErrorsEnterTheErrorPath := by
  refine ⟨fun s hs h1 h13 hv he => ?short, fun s hs hne => ?wrong⟩
  case short => exact execRecvHeader_shortHeader hs h1 h13 (endOfData_iff.mpr ⟨hv, he⟩)
  case wrong =>
    rw [← Memory.bytes_getD (by decide)] at hne
    have hexec := execValidate_wrong hs (Bool.eq_false_iff.mpr (mt (checksumRight_iff _).mp hne))
    exact hexec

open Sys2Proof.Machine in
/-- Settles O22: the next state is `loadFields` of the header that HDR_BUF's bytes spell. -/
theorem validateLoadsTheFields : Obligations.ValidateLoadsTheFields := by
  refine ⟨fun s hi hs => (hi.at_validating hs).1, fun s hs heq => ?_⟩
  have hlen := Memory.bytes_length s.rx.hdrBuf
  rw [← Memory.bytes_getD (by decide)] at heq
  have hexec := execValidate_right hs ((checksumRight_iff _).mpr heq)
  refine ⟨headerOfBytes (Memory.bytes s.rx.hdrBuf), hexec, ?_⟩
  exact ⟨half_of_bytes (by omega), half_of_bytes (by omega), word_of_bytes (by omega), rfl, rfl, rfl,
    half_of_bytes (by omega), rfl⟩

open Sys2Proof.Machine in
/-- Settles O23: the next state is `passPayload` of the one byte; a PAY_REM that is not 0 falls without a wrap. -/
theorem readPayloadPassesAByte : Obligations.ReadPayloadPassesAByte := by
  intro b rest s hs h0 hbytes
  have hexec := execReadPayload_byte hs h0 (deliversByte_iff.mpr ⟨rest, hbytes⟩)
  have hrest : s.env.stream.bytes.drop 1 = rest := by rw [hbytes]; rfl
  refine ⟨?step, ?count, ?ready⟩
  case step => rw [exec, hexec, ← hrest]; rfl
  case count => bv_omega
  case ready => exact inReady_of_pending hs h0

open Sys2Proof.Machine in
/-- Settles O24: PAY_REM = 0 is the condition of READ_PAYLOAD's completion. -/
theorem readPayloadCompletes : Obligations.ReadPayloadCompletes :=
  fun _ => execReadPayload_done

open Sys2Proof.Machine in
/-- Settles O25: the next state is `endShort`. -/
theorem readPayloadMeetsEndOfData : Obligations.ReadPayloadMeetsEndOfData :=
  fun _ hs h0 hv he => execReadPayload_eos hs h0 (endOfData_iff.mpr ⟨hv, he⟩)

open Sys2Proof.Machine in
/-- Settles O29: the response code of the header's class is the chain of flag tests. -/
theorem dispatchChoosesByPriority : Obligations.DispatchChoosesByPriority := by
  intro s hs
  rw [exec, execDispatch_dispatching hs, ofClass_classOf]
  rfl

open Sys2Proof.Machine in
/-- Settles O32: the next state is `pushResponse`, and the beat it pushes is what the pins show. -/
theorem respondSendsTheNextByte : Obligations.RespondSendsTheNextByte := by
  intro s hs hl
  have hvalid := respValid_of_responding hs hl
  have hdata := respData_of_valid hvalid
  have hlast := respLast_of_responding hs
  refine ⟨pushResponse s, execRespond_byte hs hl, pushResponse_respIdx_toNat hl, rfl, rfl, ?env, hdata, hlast, hvalid⟩
  rw [hdata, hlast]
  rfl

open Sys2Proof.Machine in
/-- Settles O33: NEXT fires, and its first two arms look at RESP_CODE only. -/
theorem nextAfterAnErrorResponse : Obligations.NextAfterAnErrorResponse := by
  refine fun s hs hl => ⟨fun hc => ?malformed, fun hc => ?checksum⟩
  case malformed =>
    rw [exec, execNext_sent hs hl (by simp [hc]), nextArm_errMalformed hc]
    rfl
  case checksum =>
    rw [exec, execNext_sent hs hl (by simp [hc]), nextArm_errChecksum hc]
    rfl

open Sys2Proof.Machine in
/-- Settles O34: NEXT fires, and after a response that is no error text the fin byte chooses its arm. -/
theorem nextEndsOrContinues : Obligations.NextEndsOrContinues := by
  intro s hs h0 h1 h2 hl
  have hexec := execNext_sent hs hl h0
  refine ⟨fun hf => ?fin, fun hf => ?continues⟩
  case fin =>
    rw [exec, hexec, nextArm_fin h1 h2 (isSet_iff.mpr hf)]
    rfl
  case continues =>
    rw [exec, hexec, nextArm_continues h1 h2 (Bool.eq_false_iff.mpr (mt isSet_iff.mp hf))]
    rfl

open Sys2Proof.Machine in
/-- Settles O38: the pins of a closed RX; every operation of RX but OPEN has another value of STATE as its condition. -/
theorem terminatedRxIsStill : Obligations.TerminatedRxIsStill := by
  intro s hs
  refine ⟨inReady_of_terminated hs, payValid_of_terminated hs, respValid_of_terminated hs, stClosed_iff.mpr hs, ?_⟩
  intro i t h hopen hreset
  exact ⟨exec_terminated_rx hs h hopen hreset, (exec_streamMove h).of_terminated hs⟩

open Sys2Proof.Machine in
/-- Settles O39: the inversion of each operation names the row, and each row's conditions are the operation's. -/
theorem transitionTableIsComplete : Obligations.TransitionTableIsComplete :=
  ⟨fun _ _ _ => exec_arc, fun _ _ _ => Arc.followed⟩

open Sys2Proof.Machine in
/-- Settles O40: no operation of R50 applies at such an edge; the ways out are rows of the transition table. -/
theorem silentPeerBlocksForEver : Obligations.SilentPeerBlocksForEver := by
  refine ⟨fun s => step_of_silent_peer, fun i s t hs h hne => ?leaves⟩
  case leaves =>
    have hmoved : t.rx.state ≠ s.rx.state := hs.symm ▸ hne
    exact ((exec_arc h).resolve_left hmoved).leaves_awaitingHeader hs hne

end

section
/-! PROOFS. The big step: a session's edges, phase by phase (header, payload, response), each with what it takes from the
stream and pushes, and by induction on the frames the outputs of Session(d) (spec 42_session_sequencer.md R185,
70_reset_and_hazards.md R282; log entries 2 and 19). -/

namespace Sys2Proof.Machine

variable {s t u : State}

/-! ## The environment of R185 -/

/-- No move is left, the pins stand at R185's levels, and the bound stream ends. -/
structure InSession (s : State) : Prop where
  moves : s.env.moves = []
  pins : s.env.pins = sessionPins
  ends : s.env.stream.ends = true

/-- The stream, the outputs and RX_POS may move on. -/
theorem InSession.of_env (h : InSession s) (hm : t.env.moves = s.env.moves) (hp : t.env.pins = s.env.pins)
    (he : t.env.stream.ends = s.env.stream.ends) : InSession t :=
  ⟨hm.trans h.moves, hp.trans h.pins, he.trans h.ends⟩

section
variable (h : InSession s)
include h

/-- A step of the session is one operation of RX: neither rst nor a request to ENC is raised. -/
theorem InSession.step {i : Instr} (hop : rxOperation s = some i) (hx : exec i s = .next t) : step s = .next t := by
  have henc : encOperation s = none := by simp [encOperation, h.pins, sessionPins, Pins.low]
  rw [step_idle h.moves, clockEdge_running (by rw [h.pins]; rfl), hop, henc, execIf, hx]
  rfl

theorem InSession.abort_low : s.env.pins.abort = false := by
  rw [h.pins]
  rfl

theorem InSession.inValid {b : Byte} {rest : List Byte} (hb : s.env.stream.bytes = b :: rest) :
    inValid s = true ∧ inData s = b := by
  simp [inData, Machine.inValid, h.pins, hb, sessionPins]

theorem InSession.endOfData (hb : s.env.stream.bytes = []) : endOfData s = true :=
  endOfData_at_end hb h.ends

/-! ## RX's operation at an edge of the session (R50) -/

theorem InSession.rxOperation_headerByte {b : Byte} {rest : List Byte} (hs : s.rx.state = .awaitingHeader)
    (hb : s.env.stream.bytes = b :: rest) : rxOperation s = some (.recvHeader (.byte b)) := by
  obtain ⟨hv, hd⟩ := h.inValid hb
  rw [rxOperation_awaitingHeader h.abort_low hs, if_pos hv, hd]

theorem InSession.rxOperation_headerEnd (hs : s.rx.state = .awaitingHeader) (hb : s.env.stream.bytes = []) :
    rxOperation s = some (.recvHeader .eos) := by
  obtain ⟨hv, he⟩ := endOfData_iff.mp (h.endOfData hb)
  simp [rxOperation_awaitingHeader h.abort_low hs, hv, he]

theorem InSession.rxOperation_payloadByte {b : Byte} {rest : List Byte} (hs : s.rx.state = .readingPayload)
    (h0 : s.rx.payRem ≠ 0) (hb : s.env.stream.bytes = b :: rest) :
    rxOperation s = some (.readPayload (.byte b)) := by
  obtain ⟨hv, hd⟩ := h.inValid hb
  have hready : s.env.pins.payReady = true := by rw [h.pins]; rfl
  rw [rxOperation_readingPayload h.abort_low hs h0, if_pos hv, if_pos hready, hd]

theorem InSession.rxOperation_payloadEnd (hs : s.rx.state = .readingPayload) (h0 : s.rx.payRem ≠ 0)
    (hb : s.env.stream.bytes = []) : rxOperation s = some (.readPayload .eos) := by
  obtain ⟨hv, he⟩ := endOfData_iff.mp (h.endOfData hb)
  simp [rxOperation_readingPayload h.abort_low hs h0, hv, he]

theorem InSession.rxOperation_respond (hs : s.rx.state = .responding)
    (hl : s.rx.respIdx.toNat < respLen s.rx.respCode s.rx.x.payloadSize) : rxOperation s = some .respond := by
  have hready : s.env.pins.respReady = true := by rw [h.pins]; rfl
  have hl : s.rx.respIdx.toNat < currentRespLen s := hl
  rw [rxOperation_responding h.abort_low hs, if_pos hl, if_pos hready]

theorem InSession.rxOperation_next (hs : s.rx.state = .responding)
    (hl : s.rx.respIdx.toNat = respLen s.rx.respCode s.rx.x.payloadSize) : rxOperation s = some .next := by
  have hl : ¬ s.rx.respIdx.toNat < currentRespLen s := hl.not_lt
  rw [rxOperation_responding h.abort_low hs, if_neg hl]

end

/-! ## Stretches of a session -/

/-- The steps of a session lead from `s` to `t`, and on the way RX takes the bytes `c` and passes on the payload `p` and
the response bytes `r`. -/
structure Runs (s t : State) (c p r : List Byte) : Prop where
  reached : ∃ k, Host.Core.run Sys2Proof.core k s = .next t
  inSession : InSession t
  enc : t.enc = s.enc
  taken : s.env.stream.bytes = c ++ t.env.stream.bytes
  rxPos : t.env.rxPos = s.env.rxPos + c.length
  payOut : t.env.payOut = s.env.payOut ++ p
  respOut : t.env.respOut.map Beat.data = s.env.respOut.map Beat.data ++ r

/-! ### Steps in a row, of any machine -/

section
variable {M : Host.Core} {a b : M.State} {k : Nat}

theorem run_succ (h : M.step a = .next b) (k : Nat) : M.run (k + 1) a = M.run k b := by
  rw [Host.Core.run, h]

theorem run_add (l : Nat) (h : M.run k a = .next b) : M.run (k + l) a = M.run l b := by
  induction k generalizing a with
  | zero =>
    cases h
    rw [Nat.zero_add]
  | succ k ih =>
    rw [Nat.add_right_comm, Host.Core.run]
    rw [Host.Core.run] at h
    cases hstep : M.step a with
    | next c => rw [hstep] at h; exact ih h
    | fault e => rw [hstep] at h; cases h
    | refused e => rw [hstep] at h; cases h

end

/-! ### One stretch after another -/

theorem Runs.refl (h : InSession s) : Runs s s [] [] [] where
  reached := ⟨0, rfl⟩
  inSession := h
  enc := rfl
  taken := rfl
  rxPos := rfl
  payOut := (List.append_nil _).symm
  respOut := (List.append_nil _).symm

theorem Runs.trans {c c' p p' r r' : List Byte} (h : Runs s t c p r) (h' : Runs t u c' p' r') :
    Runs s u (c ++ c') (p ++ p') (r ++ r') where
  reached := by
    obtain ⟨k, hk⟩ := h.reached
    obtain ⟨l, hl⟩ := h'.reached
    exact ⟨k + l, (run_add l hk).trans hl⟩
  inSession := h'.inSession
  enc := h'.enc.trans h.enc
  taken := by rw [h.taken, h'.taken, List.append_assoc]
  rxPos := by rw [h'.rxPos, h.rxPos, List.length_append, Nat.add_assoc]
  payOut := by rw [h'.payOut, h.payOut, List.append_assoc]
  respOut := by rw [h'.respOut, h.respOut, List.append_assoc]

/-- One more step that moves no byte. -/
theorem Runs.silent {c p r : List Byte} (h : Runs s t c p r) (hstep : step t = .next u) (henv : u.env = t.env)
    (henc : u.enc = t.enc) : Runs s u c p r where
  reached := by
    obtain ⟨k, hk⟩ := h.reached
    exact ⟨k + 1, (run_add 1 hk).trans (run_succ hstep 0)⟩
  inSession := h.inSession.of_env (by rw [henv]) (by rw [henv]) (by rw [henv])
  enc := henc.trans h.enc
  taken := henv ▸ h.taken
  rxPos := henv ▸ h.rxPos
  payOut := henv ▸ h.payOut
  respOut := henv ▸ h.respOut

/-! ## Collecting a header (R167) -/

/-- RX is collecting a header, or has just collected its last byte. -/
def Collecting (s : State) : Prop :=
  s.rx.state = if s.rx.hdrCnt.val = 14 then .validating else .awaitingHeader

theorem Runs.headerByte {b : Byte} {rest : List Byte} (h : InSession s) (hs : s.rx.state = .awaitingHeader)
    (hc : s.rx.hdrCnt.val ≤ 13) (hb : s.env.stream.bytes = b :: rest) :
    Runs s (collectHeaderByte b (consume 1 s)) [b] [] [] where
  reached := ⟨1, run_succ (h.step (h.rxOperation_headerByte hs hb)
    (execRecvHeader_byte hs hc (deliversByte_iff.mpr ⟨rest, hb⟩))) 0⟩
  inSession := h.of_env rfl rfl rfl
  enc := rfl
  taken := by simp [hb]
  rxPos := rfl
  payOut := (List.append_nil _).symm
  respOut := (List.append_nil _).symm

/-- Bytes of the stream go to HDR_BUF one after another, as long as there is room for them. -/
theorem runs_header (bs : List Byte) : ∀ {s : State} {rest : List Byte}, InSession s → Collecting s →
    s.rx.hdrCnt.val + bs.length ≤ 14 → s.env.stream.bytes = bs ++ rest →
    ∃ t, Runs s t bs [] [] ∧ Collecting t ∧ t.rx.hdrCnt.val = s.rx.hdrCnt.val + bs.length ∧
      t.rx.hdrBuf = Memory.store s.rx.hdrBuf s.rx.hdrCnt.val bs := by
  induction bs with
  | nil => exact fun {s _} h hcol _ _ => ⟨s, .refl h, hcol, rfl, rfl⟩
  | cons b bs ih =>
    intro s rest h hcol hlen hbytes
    rw [List.length_cons] at hlen
    have hc : s.rx.hdrCnt.val ≤ 13 := by omega
    have hs : s.rx.state = .awaitingHeader := by rw [hcol, if_neg (by omega)]
    have hcnt := hdrCnt_add_one_val hc
    have hrun := Runs.headerByte h hs hc hbytes
    have hcol' : Collecting (collectHeaderByte b (consume 1 s)) := by
      rw [Collecting, collectHeaderByte_state, collectHeaderByte_hdrCnt, consume_rx, hcnt, hs]
      simp only [add_one_eq_fourteen, Nat.reduceEqDiff]
    obtain ⟨t, hrun', hcolt, hcntt, hbuf⟩ := ih (s := collectHeaderByte b (consume 1 s)) (rest := rest)
      hrun.inSession hcol' (by rw [collectHeaderByte_hdrCnt, consume_rx, hcnt]; omega) (by simp [hbytes])
    rw [collectHeaderByte_hdrCnt, consume_rx, hcnt] at hcntt hbuf
    refine ⟨t, hrun.trans hrun', hcolt, by rw [hcntt, List.length_cons]; omega, hbuf⟩

/-- RX stands at a frame boundary of the session, with `d` still to come. -/
structure AtBoundary (d : List Byte) (s : State) : Prop where
  inSession : InSession s
  state : s.rx.state = .awaitingHeader
  hdrCnt : s.rx.hdrCnt = 0
  hdrBuf : s.rx.hdrBuf = []
  bytes : s.env.stream.bytes = d

theorem AtBoundary.collects {bs rest : List Byte} (h : AtBoundary (bs ++ rest) s) (hl : bs.length ≤ 14) :
    ∃ t, Runs s t bs [] [] ∧ Collecting t ∧ t.rx.hdrCnt.val = bs.length ∧ t.rx.hdrBuf = Memory.store [] 0 bs := by
  have hcnt : s.rx.hdrCnt.val = 0 := congrArg Fin.val h.hdrCnt
  have hcol : Collecting s := by rw [Collecting, hcnt]; exact h.state
  obtain ⟨t, hrun, hcolt, hcntt, hbuf⟩ := runs_header bs h.inSession hcol (by omega) h.bytes
  rw [hcnt, Nat.zero_add] at hcntt
  rw [hcnt, h.hdrBuf] at hbuf
  exact ⟨t, hrun, hcolt, hcntt, hbuf⟩

/-! ## Passing the payload on (R173 to R175) -/

theorem Runs.payloadByte {b : Byte} {rest : List Byte} (h : InSession s) (hs : s.rx.state = .readingPayload)
    (h0 : s.rx.payRem ≠ 0) (hb : s.env.stream.bytes = b :: rest) : Runs s (takePayload [b] s) [b] [b] [] where
  reached := ⟨1, run_succ (h.step (h.rxOperation_payloadByte hs h0 hb)
    (execReadPayload_byte hs h0 (deliversByte_iff.mpr ⟨rest, hb⟩))) 0⟩
  inSession := h.of_env rfl rfl rfl
  enc := rfl
  taken := by simp [hb]
  rxPos := rfl
  payOut := rfl
  respOut := (List.append_nil _).symm

/-- Bytes of the stream that are still missing are passed on one after another. -/
theorem runs_payload (bs : List Byte) : ∀ {s : State}, InSession s → s.rx.state = .readingPayload →
    bs.length ≤ s.rx.payRem.toNat → bs <+: s.env.stream.bytes → Runs s (takePayload bs s) bs bs [] := by
  induction bs with
  | nil => exact fun {s} h _ _ _ => (takePayload_nil s).symm ▸ .refl h
  | cons b bs ih =>
    intro s h hs hlen ⟨rest, hrest⟩
    rw [List.length_cons] at hlen
    have h0 : s.rx.payRem ≠ 0 := fun h => by simp [h] at hlen
    have hrun := Runs.payloadByte h hs h0 hrest.symm
    have hrem : (takePayload [b] s).rx.payRem.toNat = s.rx.payRem.toNat - 1 :=
      takePayload_payRem_toNat (Nat.le_trans (Nat.le_add_left 1 _) hlen)
    have hfront : bs <+: (takePayload [b] s).env.stream.bytes := ⟨rest, by simp [← hrest]⟩
    rw [takePayload_cons]
    exact hrun.trans (ih hrun.inSession hs (by omega) hfront)

/-- The payload ends, whole or short, and RX dispatches its header. -/
theorem runs_payload_to_dispatching (h : InSession s) (hs : s.rx.state = .readingPayload) :
    ∃ t, Runs s t (missingBytes s) (missingBytes s) [] ∧ t.rx.state = .dispatching ∧ t.rx.x = s.rx.x := by
  have hrun := runs_payload (missingBytes s) h hs (missingBytes_length_le s) (List.take_prefix _ _)
  have hzero := takePayload_missingBytes_payRem_eq_zero_iff (s := s)
  generalize hu : takePayload (missingBytes s) s = u at hrun hzero
  have hstate : u.rx.state = .readingPayload := hu ▸ hs
  have hx : u.rx.x = s.rx.x := hu ▸ rfl
  obtain hl | hl := le_or_gt s.rx.payRem.toNat s.env.stream.bytes.length
  · have h0 := hzero.mpr hl
    have hstep := hrun.inSession.step (rxOperation_payloadComplete hrun.inSession.abort_low hstate h0)
      (execReadPayload_done hstate h0)
    exact ⟨_, hrun.silent hstep rfl rfl, rfl, hx⟩
  · have h0 := mt hzero.mp (Nat.not_le.mpr hl)
    have hempty : u.env.stream.bytes = [] := by
      rw [← hu, takePayload_stream, drop_missingBytes_length, List.drop_of_length_le hl.le]
    have hstep := hrun.inSession.step (hrun.inSession.rxOperation_payloadEnd hstate h0 hempty)
      (execReadPayload_eos hstate h0 (hrun.inSession.endOfData hempty))
    exact ⟨_, hrun.silent hstep rfl rfl, rfl, hx⟩

/-! ## Sending the response (R178, R179) -/

/-- The text of the response being sent. -/
def responseText (s : State) : List Byte :=
  respBytes s.rx.respCode s.rx.x.payloadSize

theorem Runs.responseByte (h : InSession s) (hs : s.rx.state = .responding)
    (hl : s.rx.respIdx.toNat < (responseText s).length) :
    Runs s (pushResponse s) [] [] [(responseText s)[s.rx.respIdx.toNat]] where
  reached := ⟨1, run_succ (h.step (h.rxOperation_respond hs hl) (execRespond_byte hs hl)) 0⟩
  inSession := h.of_env rfl rfl rfl
  enc := rfl
  taken := rfl
  rxPos := rfl
  payOut := (List.append_nil _).symm
  respOut := by
    have hbyte := List.getD_eq_getElem (responseText s) 0 hl
    rw [pushResponse_respOut, List.map_append, ← hbyte]
    rfl

/-- The rest of the response is sent byte by byte, and only RESP_IDX changes. -/
theorem runs_response (n : Nat) : ∀ {s : State}, InSession s → s.rx.state = .responding →
    s.rx.respIdx.toNat + n = (responseText s).length →
    ∃ t, Runs s t [] [] ((responseText s).drop s.rx.respIdx.toNat) ∧ t.rx = { s.rx with respIdx := t.rx.respIdx } ∧
      t.rx.respIdx.toNat = (responseText s).length := by
  induction n with
  | zero =>
    intro s h hs hn
    rw [Nat.add_zero] at hn
    rw [List.drop_of_length_le hn.ge]
    exact ⟨s, .refl h, rfl, hn⟩
  | succ n ih =>
    intro s h hs hn
    have hl : s.rx.respIdx.toNat < (responseText s).length := by omega
    have hidx := pushResponse_respIdx_toNat hl
    have htext : responseText (pushResponse s) = responseText s := rfl
    have hrun := Runs.responseByte h hs hl
    obtain ⟨t, hrun', hrx, hend⟩ := ih (s := pushResponse s) hrun.inSession hs (by rw [htext, hidx]; omega)
    rw [htext, hidx] at hrun'
    rw [List.drop_eq_getElem_cons hl]
    exact ⟨t, hrun.trans hrun', hrx, hend⟩

theorem nextArm_env (s : State) : (nextArm s).env = s.env := by
  obtain ⟨c, -, heq⟩ | ⟨-, -, -, heq⟩ := nextArm_cases s <;> rw [heq] <;> rfl

theorem nextArm_enc (s : State) : (nextArm s).enc = s.enc := by
  obtain ⟨c, -, heq⟩ | ⟨-, -, -, heq⟩ := nextArm_cases s <;> rw [heq] <;> rfl

/-- A response is sent whole, and then NEXT takes its arm in a state that differs from the start in RESP_IDX only. -/
theorem runs_response_to_nextArm (h : InSession s) (hs : s.rx.state = .responding) (hi : s.rx.respIdx = 0)
    (h0 : s.rx.respCode ≠ .none) :
    ∃ t, Runs s (nextArm t) [] [] (responseText s) ∧ t.rx = { s.rx with respIdx := t.rx.respIdx } := by
  have hidx : s.rx.respIdx.toNat = 0 := congrArg BitVec.toNat hi
  obtain ⟨t, hrun, hrx, hend⟩ := runs_response (responseText s).length h hs (by omega)
  rw [hidx, List.drop_zero] at hrun
  have hstate : t.rx.state = .responding := by rw [hrx, hs]
  have hcode : t.rx.respCode = s.rx.respCode := by rw [hrx]
  have hsize : t.rx.x = s.rx.x := by rw [hrx]
  have hl : t.rx.respIdx.toNat = respLen t.rx.respCode t.rx.x.payloadSize := by rw [hcode, hsize]; exact hend
  have hstep := hrun.inSession.step (hrun.inSession.rxOperation_next hstate hl)
    (execNext_sent hstate hl (hcode ▸ h0))
  exact ⟨t, hrun.silent hstep (nextArm_env t) (nextArm_enc t), hrx⟩

/-! ## One step of Session(d) (R185) -/

theorem sessionWithin_nil (k : Nat) : sessionWithin (k + 1) [] = ⟨[], [], .peerClosed, []⟩ := rfl

theorem sessionWithin_short {d : List Byte} (k : Nat) (h1 : 1 ≤ d.length) (h13 : d.length ≤ 13) :
    sessionWithin (k + 1) d = ⟨[respBytes .errMalformed 0], [], .errMalformed, []⟩ := by
  rw [sessionWithin, if_neg (by omega), if_pos (by omega)]

/-- The text that answers a valid header (R177, R207). -/
def headerText (x : Header) : List Byte :=
  respBytes (.ofClass (classOf x)) x.payloadSize

section
variable {bs : List Byte} (hl : bs.length = 14)
include hl

theorem sessionWithin_wrong (k : Nat) (rest : List Byte) (hw : checksumRight bs = false) :
    sessionWithin (k + 1) (bs ++ rest) = ⟨[respBytes .errChecksum 0], [], .errChecksum, rest⟩ := by
  rw [sessionWithin, if_neg (by simp [hl]), if_neg (by simp [hl]), List.take_left' hl, decodeHeader_wrong hl hw,
    List.drop_left' hl]

theorem sessionWithin_right (k : Nat) (rest : List Byte) (hr : checksumRight bs = true) :
    sessionWithin (k + 1) (bs ++ rest) =
      let x := headerOfBytes bs
      let unread := rest.drop x.payloadSize.toNat
      (if isSet x.finFlag = true then ⟨[], [], .fin, unread⟩ else sessionWithin k unread).cons (headerText x)
        (rest.take x.payloadSize.toNat) := by
  rw [sessionWithin, if_neg (by simp [hl]), if_neg (by simp [hl]), List.take_left' hl, decodeHeader_right hl hr,
    List.drop_left' hl]
  dsimp only
  rw [apply_ite (SessionResult.cons _ _)]
  rfl

end

/-! ## Frames of the session -/

/-- From `s` the steps come to TERMINATED with the outputs, the cause and the unread bytes of `q`. -/
def Plays (q : SessionResult) (s : State) : Prop :=
  ∃ t c, Runs s t c q.payloads.flatten q.responses.flatten ∧ t.rx.state = .terminated ∧ t.rx.termCause = q.cause ∧
    t.env.stream.bytes = q.unread

/-- A frame answered in front of a session. -/
theorem Plays.cons {q : SessionResult} {c p r : List Byte} (hrun : Runs s t c p r) (h : Plays q t) :
    Plays (q.cons r p) s := by
  obtain ⟨u, c', hrun', hend⟩ := h
  exact ⟨u, c ++ c', hrun.trans hrun', hend⟩

/-- End-of-data at a frame boundary (R168). -/
theorem AtBoundary.peerClosed (h : AtBoundary [] s) : Plays ⟨[], [], .peerClosed, []⟩ s := by
  have hop := h.inSession.rxOperation_headerEnd h.state h.bytes
  have hx := execRecvHeader_peerClosed h.state (congrArg Fin.val h.hdrCnt) (h.inSession.endOfData h.bytes)
  exact ⟨terminate .peerClosed s, [], (Runs.refl h.inSession).silent (h.inSession.step hop hx) rfl rfl, rfl, rfl,
    h.bytes⟩

/-- The cause that a framing error ends its session with (R180). -/
def errorCause : FramingError → TermCause
  | .malformedHeader => .errMalformed
  | .checksumError => .errChecksum

theorem nextArm_ofError {e : FramingError} (h : s.rx.respCode = .ofError e) : nextArm s = terminate (errorCause e) s := by
  cases e with
  | malformedHeader => exact nextArm_errMalformed h
  | checksumError => exact nextArm_errChecksum h

/-- A framing error's text does not depend on payload_size (R207). -/
theorem respBytes_ofError (e : FramingError) (n : Half) : respBytes (.ofError e) n = respBytes (.ofError e) 0 := by
  cases e <;> rfl

theorem RespCode.ofError_ne_none (e : FramingError) : RespCode.ofError e ≠ .none := by
  cases e <;> decide

/-- The error path: the text is sent and the session ends (R235, R178, R180). -/
theorem plays_of_raiseFraming {e : FramingError} {c : List Byte} (hrun : Runs s (raiseFraming e u) c [] []) :
    Plays ⟨[respBytes (.ofError e) 0], [], errorCause e, u.env.stream.bytes⟩ s := by
  obtain ⟨t, hresp, hrx⟩ := runs_response_to_nextArm hrun.inSession rfl rfl (RespCode.ofError_ne_none e)
  have hcode : t.rx.respCode = .ofError e := by rw [hrx]; rfl
  have htext : responseText (raiseFraming e u) = respBytes (.ofError e) 0 := respBytes_ofError e _
  rw [nextArm_ofError hcode, htext] at hresp
  exact ⟨_, _, by simpa using hrun.trans hresp, rfl, rfl, hresp.taken.symm⟩

/-- End-of-data inside a header (R169). -/
theorem AtBoundary.shortHeader {d : List Byte} (h : AtBoundary d s) (h1 : 1 ≤ d.length) (h13 : d.length ≤ 13) :
    Plays ⟨[respBytes .errMalformed 0], [], .errMalformed, []⟩ s := by
  obtain ⟨t, hrun, hcol, hcnt, -⟩ := AtBoundary.collects (rest := []) (by rwa [List.append_nil]) (h13.trans (by decide))
  have hs : t.rx.state = .awaitingHeader := by rw [hcol, if_neg (by omega)]
  have hempty : t.env.stream.bytes = [] := by simpa [h.bytes] using hrun.taken
  have hstep := hrun.inSession.step (hrun.inSession.rxOperation_headerEnd hs hempty)
    (execRecvHeader_shortHeader hs (by omega) (by omega) (hrun.inSession.endOfData hempty))
  have hplays := plays_of_raiseFraming (hrun.silent hstep rfl rfl)
  rwa [hempty] at hplays

/-- A whole header is collected and stands in HDR_BUF (R167). -/
theorem AtBoundary.wholeHeader {bs rest : List Byte} (h : AtBoundary (bs ++ rest) s) (hl : bs.length = 14) :
    ∃ t, Runs s t bs [] [] ∧ t.rx.state = .validating ∧ Memory.bytes t.rx.hdrBuf = bs ∧
      t.env.stream.bytes = rest := by
  obtain ⟨t, hrun, hcol, hcnt, hbuf⟩ := h.collects hl.le
  have hs : t.rx.state = .validating := by rw [hcol, if_pos (hcnt.trans hl)]
  have hrest : t.env.stream.bytes = rest := by simpa [h.bytes] using hrun.taken.symm
  exact ⟨t, hrun, hs, by rw [hbuf, Memory.bytes_store hl], hrest⟩

/-- A header with the wrong checksum (R172). -/
theorem AtBoundary.badChecksum {bs rest : List Byte} (h : AtBoundary (bs ++ rest) s) (hl : bs.length = 14)
    (hw : checksumRight bs = false) : Plays ⟨[respBytes .errChecksum 0], [], .errChecksum, rest⟩ s := by
  obtain ⟨t, hrun, hs, hbuf, hrest⟩ := h.wholeHeader hl
  have hx := execValidate_wrong hs (hbuf.symm ▸ hw)
  have hstep := hrun.inSession.step (rxOperation_validating hrun.inSession.abort_low hs) hx
  have hplays := plays_of_raiseFraming (hrun.silent hstep rfl rfl)
  rwa [hrest] at hplays

/-- A valid frame: its payload is passed on as far as the stream has it, its header is answered, and NEXT's arm follows
(R171 to R179). -/
theorem AtBoundary.validFrame {bs rest : List Byte} (h : AtBoundary (bs ++ rest) s) (hl : bs.length = 14)
    (hr : checksumRight bs = true) :
    ∃ t c, Runs s (nextArm t) c (rest.take (headerOfBytes bs).payloadSize.toNat) (headerText (headerOfBytes bs)) ∧
      t.rx.respCode = .ofClass (classOf (headerOfBytes bs)) ∧ t.rx.x = headerOfBytes bs ∧
      (nextArm t).env.stream.bytes = rest.drop (headerOfBytes bs).payloadSize.toNat := by
  obtain ⟨a, hheader, hs, rfl, rfl⟩ := h.wholeHeader hl
  generalize hx : headerOfBytes (Memory.bytes a.rx.hdrBuf) = x
  have hvalidate := execValidate_right hs hr
  rw [hx] at hvalidate
  have hloaded := hheader.silent
    (hheader.inSession.step (rxOperation_validating hheader.inSession.abort_low hs) hvalidate) rfl rfl
  obtain ⟨b, hpayload, hb, hbx : b.rx.x = x⟩ := runs_payload_to_dispatching hloaded.inSession rfl
  have hdispatch := execDispatch_dispatching hb
  rw [hbx] at hdispatch
  have hanswer := hpayload.silent
    (hpayload.inSession.step (rxOperation_dispatching hpayload.inSession.abort_low hb) hdispatch) rfl rfl
  obtain ⟨t, hresp, hrx⟩ := runs_response_to_nextArm hanswer.inSession rfl rfl (RespCode.ofClass_ne_none _)
  have htext : responseText (startResponse (.ofClass (classOf x)) b) = headerText x :=
    congrArg (fun y : Header => respBytes (.ofClass (classOf x)) y.payloadSize) hbx
  have hrun := (hloaded.trans hanswer).trans hresp
  simp only [htext, List.append_nil, List.nil_append] at hrun
  refine ⟨t, _, hrun, by rw [hrx]; rfl, by rw [hrx]; exact hbx, ?unread⟩
  have htaken := (hanswer.trans hresp).taken
  rw [List.append_nil] at htaken
  exact (List.append_cancel_left ((List.take_append_drop _ _).trans htaken)).symm

/-! ## The session by frames -/

theorem RespCode.ofClass_ne_error (c : FrameClass) :
    RespCode.ofClass c ≠ .errMalformed ∧ RespCode.ofClass c ≠ .errChecksum := by
  cases c <;> decide

/-- From a frame boundary the steps give what the big step gives, however long its bound (log entry 19). -/
theorem AtBoundary.plays (k : Nat) : ∀ {d : List Byte} {s : State}, d.length < k → AtBoundary d s →
    Plays (sessionWithin k d) s := by
  induction k with
  | zero => exact fun hd => absurd hd (Nat.not_lt_zero _)
  | succ k ih =>
    intro d s hd h
    obtain h0 | h1 := Nat.eq_zero_or_pos d.length
    · obtain rfl := List.eq_nil_of_length_eq_zero h0
      exact h.peerClosed
    obtain h13 | h14 : d.length ≤ 13 ∨ 14 ≤ d.length := by omega
    · rw [sessionWithin_short k h1 h13]
      exact h.shortHeader h1 h13
    obtain ⟨bs, rest, rfl, hl⟩ : ∃ bs rest, d = bs ++ rest ∧ bs.length = 14 :=
      ⟨d.take 14, d.drop 14, (List.take_append_drop 14 d).symm, List.length_take_of_le h14⟩
    cases hr : checksumRight bs with
    | false =>
      rw [sessionWithin_wrong hl k rest hr]
      exact h.badChecksum hl hr
    | true =>
      obtain ⟨t, c, hrun, hcode, hx, hunread⟩ := h.validFrame hl hr
      obtain ⟨hne1, hne2⟩ := RespCode.ofClass_ne_error (classOf (headerOfBytes bs))
      rw [← hcode] at hne1 hne2
      rw [sessionWithin_right hl k rest hr]
      refine .cons hrun ?_
      cases hf : isSet (headerOfBytes bs).finFlag with
      | true =>
        rw [nextArm_fin hne1 hne2 (hx ▸ hf)] at hrun hunread ⊢
        exact ⟨_, [], .refl hrun.inSession, rfl, rfl, hunread⟩
      | false =>
        rw [nextArm_continues hne1 hne2 (hx ▸ hf)] at hrun hunread ⊢
        refine ih ?_ ⟨hrun.inSession, rfl, rfl, rfl, hunread⟩
        rw [List.length_append] at hd
        rw [List.length_drop]
        omega

end Sys2Proof.Machine

open Sys2Proof.Machine in
/-- Settles O55: OPEN stands at a frame boundary with RX_POS = 0, and from there each frame of the small steps is one of
the big step. -/
theorem smallStepsGiveTheSession : Obligations.SmallStepsGiveTheSession := by
  intro s s₀ d hopen hs hm hp hstream
  have hexec : exec .openSession s = .next (openedSession s) := execOpen_closed hs
  obtain rfl : openedSession s = s₀ := by simpa [hexec] using hopen
  have hsession : InSession (openedSession s) := ⟨hm, hp, congrArg Stream.ends hstream⟩
  have hbytes : (openedSession s).env.stream.bytes = d := congrArg Stream.bytes hstream
  obtain ⟨t, c, hrun, hstate, hcause, hunread⟩ :=
    AtBoundary.plays (d.length + 1) (Nat.lt_succ_self _) ⟨hsession, rfl, rfl, rfl, hbytes⟩
  obtain ⟨k, hk⟩ := hrun.reached
  have htaken := congrArg List.length (hbytes.symm.trans hrun.taken)
  rw [List.length_append] at htaken
  refine ⟨k, t, hk, hstate, hcause, hrun.respOut, hrun.payOut, hunread, ?position, hrun.enc⟩
  rw [hrun.rxPos, htaken]
  exact congrArg (· + _) (Nat.zero_add _)

end

section
/-! PROOFS. The response generator: Classify and the rows of the four classes, Dec's equations and its number of digits,
and the response texts with their lengths (spec 43_response_generator.md R201 to R210). -/

namespace Sys2Proof.Machine

/-! ## Classify and the class rows (R201 to R205, 10_state.md R30; log entries 5 and 16) -/

section
variable {ack syn fin : Byte}

theorem classify_syn (hs : syn = 1) : classify ack syn fin = .syn :=
  if_pos (isSet_iff.mpr hs)

theorem classify_ack (ha : ack = 1) (hs : syn ≠ 1) : classify ack syn fin = .ack :=
  (if_neg (mt isSet_iff.mp hs)).trans (if_pos (isSet_iff.mpr ha))

theorem classify_fin (ha : ack ≠ 1) (hs : syn ≠ 1) (hf : fin = 1) : classify ack syn fin = .fin :=
  (if_neg (mt isSet_iff.mp hs)).trans <| (if_neg (mt isSet_iff.mp ha)).trans (if_pos (isSet_iff.mpr hf))

theorem classify_data (ha : ack ≠ 1) (hs : syn ≠ 1) (hf : fin ≠ 1) : classify ack syn fin = .data :=
  (if_neg (mt isSet_iff.mp hs)).trans <| (if_neg (mt isSet_iff.mp ha)).trans (if_neg (mt isSet_iff.mp hf))

end

theorem exec_classInstr_dispatching {c : FrameClass} {h : Header} {s : State} (hs : s.rx.state = .dispatching)
    (hx : s.rx.x = h) (hc : classOf h = c) : exec (classInstr c h) s = .next (startResponse (.ofClass c) s) := by
  rw [exec_classInstr, runClass, if_pos ⟨hs, hx, hc⟩]

/-! ## Dec (R208) -/

section
variable {k n : Nat}

theorem decDigits_of_lt_ten (h : n < 10) : decDigits (k + 1) n = [digit n] :=
  if_pos h

theorem decDigits_of_ten_le (h : 10 ≤ n) : decDigits (k + 1) n = decDigits k (n / 10) ++ [digit (n % 10)] :=
  if_neg (not_lt.mpr h)

theorem div_ten_lt_pow (h : n < 10 ^ (k + 1)) : n / 10 < 10 ^ k :=
  Nat.div_lt_of_lt_mul (Nat.pow_succ' ▸ h)

/-- A bound that the number's digits fit in can be raised. -/
theorem decDigits_succ_of_lt_pow (h : n < 10 ^ (k + 1)) : decDigits (k + 2) n = decDigits (k + 1) n := by
  induction k generalizing n with
  | zero => rw [decDigits_of_lt_ten h, decDigits_of_lt_ten h]
  | succ k ih =>
    obtain hlt | hge := lt_or_ge n 10
    · rw [decDigits_of_lt_ten hlt, decDigits_of_lt_ten hlt]
    · rw [decDigits_of_ten_le hge, decDigits_of_ten_le hge, ih (div_ten_lt_pow h)]

theorem decDigits_length (h : n < 10 ^ (k + 1)) : (decDigits (k + 1) n).length = Nat.log 10 n + 1 := by
  induction k generalizing n with
  | zero =>
    have hlt : n < 10 := h
    rw [decDigits_of_lt_ten hlt, Nat.log_of_lt hlt, List.length_singleton]
  | succ k ih =>
    obtain hlt | hge := lt_or_ge n 10
    · rw [decDigits_of_lt_ten hlt, Nat.log_of_lt hlt, List.length_singleton]
    · rw [decDigits_of_ten_le hge, List.length_append, List.length_singleton, ih (div_ten_lt_pow h),
        Nat.log_of_one_lt_of_le (by decide) hge]

theorem dec_of_lt_ten (h : n < 10) : dec n = [digit n] :=
  decDigits_of_lt_ten h

/-- The five digits of `dec` are enough for n, and so one fewer is for n / 10. -/
theorem dec_of_ten_le (h : 10 ≤ n) (hn : n < 10 ^ 5) : dec n = dec (n / 10) ++ [digit (n % 10)] := by
  have hraise : decDigits 5 (n / 10) = decDigits 4 (n / 10) := decDigits_succ_of_lt_pow (div_ten_lt_pow hn)
  rw [dec, dec, decDigits_of_ten_le h, hraise]

theorem dec_length (hn : n < 10 ^ 5) : (dec n).length = Nat.log 10 n + 1 :=
  decDigits_length hn

theorem log_ten_add_one_of_lt_pow_five (hn : n < 10 ^ 5) :
    Nat.log 10 n + 1 =
      if n < 10 then 1 else if n < 100 then 2 else if n < 1000 then 3 else if n < 10000 then 4 else 5 := by
  split_ifs with h1 h2 h3 h4
  · rw [Nat.log_of_lt h1]
  · rw [Nat.log_eq_of_pow_le_of_lt_pow (m := 1) (by omega) (by omega)]
  · rw [Nat.log_eq_of_pow_le_of_lt_pow (m := 2) (by omega) (by omega)]
  · rw [Nat.log_eq_of_pow_le_of_lt_pow (m := 3) (by omega) (by omega)]
  · rw [Nat.log_eq_of_pow_le_of_lt_pow (m := 4) (by omega) hn]

end

/-! ## The lengths that no fixed text gives (R210) -/

theorem respLen_data (n : Half) : respLen .data n = 34 + (dec n.toNat).length :=
  List.length_append

theorem respLen_errChecksum (n : Half) : respLen .errChecksum n = 7 + Config.msgChecksum.length :=
  List.length_append

theorem respLen_data_bounds (n : Half) : 35 ≤ respLen .data n ∧ respLen .data n ≤ 39 := by
  have hmin := dec_length (n.isLt.trans (by decide))
  have hmax : (dec n.toNat).length ≤ 5 := decDigits_length_le 5 n.toNat
  rw [respLen_data]
  omega

theorem respLen_errChecksum_bounds (n : Half) : 7 ≤ respLen .errChecksum n ∧ respLen .errChecksum n ≤ 255 :=
  ⟨respLen_errChecksum n ▸ Nat.le_add_right 7 _, respLen_le .errChecksum n⟩

end Sys2Proof.Machine

open Sys2Proof.Machine in
/-- Settles O30: each row is `runClass` where its three conditions hold, and Classify gives the row's class. -/
theorem classRowsStartTheirResponse : Obligations.ClassRowsStartTheirResponse := by
  intro h s hs hx
  refine ⟨fun h1 => ?syn, fun h1 h2 => ?ack, fun h1 h2 h3 => ?fin, fun h1 h2 h3 => ?data⟩
  case syn => exact exec_classInstr_dispatching (c := .syn) hs hx (classify_syn h1)
  case ack => exact exec_classInstr_dispatching (c := .ack) hs hx (classify_ack h2 h1)
  case fin => exact exec_classInstr_dispatching (c := .fin) hs hx (classify_fin h2 h1 h3)
  case data => exact exec_classInstr_dispatching (c := .data) hs hx (classify_data h2 h1 h3)

open Sys2Proof.Machine in
/-- Settles O45: the fixed texts by `respLen`'s equations, DATA by the digits of a 16-bit value, and the checksum error
by the bound on MSG_CHECKSUM. -/
theorem responseLengths : Obligations.ResponseLengths := by
  intro n
  obtain ⟨hdata, hdata'⟩ := respLen_data_bounds n
  exact ⟨respLen_syn n, respLen_ack n, respLen_fin n, hdata, hdata', respLen_errMalformed n,
    respLen_errChecksum_bounds n⟩

open Sys2Proof.Machine in
/-- Settles O46: a 16-bit value has at most five digits, where Dec's bound is never met. -/
theorem decimalText : Obligations.DecimalText := by
  intro n h16
  have hn : n < 10 ^ 5 := h16.trans (by decide)
  exact ⟨dec_of_lt_ten, fun h => dec_of_ten_le h hn, (dec_length hn).trans (log_ten_add_one_of_lt_pow_five hn)⟩

open Sys2Proof.Machine in
/-- Settles O47: the four equations of Classify. -/
theorem classifyTruthTable : Obligations.ClassifyTruthTable :=
  fun _ _ _ => ⟨classify_syn, classify_ack, classify_fin, classify_data⟩

/-- Settles O56: each text is the concatenation of its parts, which evaluates to the bytes of the table. -/
theorem responseTexts : Obligations.ResponseTexts :=
  fun _ => ⟨rfl, rfl, rfl, rfl, rfl, rfl, rfl⟩

end

section
/-! PROOFS. The exceptions and the conditions that are none: how the error path is entered and what it is recorded with,
the short payload, ABORT, and end-of-data where no byte is wanted (spec 60_exceptions.md R220, R224, R229, R230,
R235). -/

namespace Sys2Proof.Machine

variable {s t : State}

/-! ## The rows of the illegal headers (R235, R102, R103; log entry 5) -/

theorem execShorthdr_collected (hs : s.rx.state = .awaitingHeader) (h1 : 1 ≤ s.rx.hdrCnt.val)
    (h13 : s.rx.hdrCnt.val ≤ 13) (he : endOfData s = true) :
    execShorthdr ((Memory.bytes s.rx.hdrBuf).take s.rx.hdrCnt.val) s = .next (raiseFraming .malformedHeader s) :=
  (execRecvHeader_eos_eq_shorthdr hs h1 h13).symm.trans (execRecvHeader_shortHeader hs h1 h13 he)

theorem execBadsum_collected (hs : s.rx.state = .validating)
    (hw : checksumRight (Memory.bytes s.rx.hdrBuf) = false) :
    execBadsum (headerOfBytes (Memory.bytes s.rx.hdrBuf)) s = .next (raiseFraming .checksumError s) :=
  (execValidate_eq_badsum hs hw).symm.trans (execValidate_wrong hs hw)

/-- The checksum is wrong when the sum of HDR_BUF's first 13 bytes is not its last byte (R97, R121). -/
theorem checksumRight_hdrBuf_eq_false {m : Memory}
    (h : (((Memory.bytes m).take 13).map BitVec.toNat).sum % 256 ≠ (Memory.read m 13).toNat) :
    checksumRight (Memory.bytes m) = false := by
  rw [← Memory.bytes_getD (by decide)] at h
  exact Bool.eq_false_iff.mpr (mt (checksumRight_iff _).mp h)

/-! ## What a framing error is recorded with (R220, R180) -/

theorem execNext_ofError {e : FramingError} (hs : s.rx.state = .responding) (hc : s.rx.respCode = .ofError e)
    (hl : s.rx.respIdx.toNat = respLen s.rx.respCode s.rx.x.payloadSize) :
    execNext s = .next (terminate (errorCause e) s) := by
  rw [execNext_sent hs hl (hc ▸ RespCode.ofError_ne_none e), nextArm_ofError hc]

theorem stRespCode_raiseFraming (e : FramingError) (s : State) :
    (status (raiseFraming e s)).stRespCode.toNat = if (FramingError.exc e).number = 2 then 5 else 6 := by
  cases e <;> rfl

theorem stTermCause_terminate_errorCause (e : FramingError) (s : State) :
    (status (terminate (errorCause e) s)).stTermCause.toNat = if (FramingError.exc e).number = 2 then 3 else 4 := by
  cases e <;> rfl

/-! ## The short payload (R224) -/

/-- The state with the registers that a short payload leaves different replaced. -/
def withPayload (sh : Bool) (rem cnt : Half) (s : State) : State :=
  { s with rx := { s.rx with short := sh, payRem := rem, payCnt := cnt } }

/-- An outcome without those registers. -/
def forgetPayload (r : Host.Outcome State Fault Refusal) : Host.Outcome State Fault Refusal :=
  thenRun r fun t => .next (withPayload false 0 0 t)

/-- `f` does not look at those registers: whatever they hold, its outcome is the same up to them. -/
def PayloadBlind (f : State → Host.Outcome State Fault Refusal) : Prop :=
  ∀ (sh : Bool) (rem cnt : Half) (s : State), forgetPayload (f (withPayload sh rem cnt s)) = forgetPayload (f s)

theorem execDispatch_payloadBlind : PayloadBlind execDispatch := by
  intro sh rem cnt s
  simp only [execDispatch, forgetPayload, thenRun_ite]
  rfl

theorem execRespond_payloadBlind : PayloadBlind execRespond := by
  intro sh rem cnt s
  simp only [execRespond, forgetPayload, thenRun_ite]
  rfl

/-- NEXT's continue arm clears those registers; its other arms keep them. -/
theorem nextArm_withPayload (sh : Bool) (rem cnt : Half) (s : State) :
    withPayload false 0 0 (nextArm (withPayload sh rem cnt s)) = withPayload false 0 0 (nextArm s) := by
  simp only [nextArm, apply_ite (withPayload false 0 0)]
  rfl

theorem execNext_payloadBlind : PayloadBlind execNext := by
  intro sh rem cnt s
  simp only [execNext, forgetPayload, thenRun_ite, thenRun_next, nextArm_withPayload]
  rfl

theorem PayloadBlind.next {f : State → Host.Outcome State Fault Refusal} (hf : PayloadBlind f) (h : f s = .next t)
    (sh : Bool) (rem cnt : Half) :
    ∃ t', f (withPayload sh rem cnt s) = .next t' ∧ withPayload t.rx.short t.rx.payRem t.rx.payCnt t' = t := by
  have hforget := hf sh rem cnt s
  rw [h] at hforget
  obtain ⟨t', hexec, ht'⟩ := thenRun_eq_next hforget
  have hback := congrArg (withPayload t.rx.short t.rx.payRem t.rx.payCnt) (Host.Outcome.next.inj ht')
  exact ⟨t', hexec, hback⟩

/-! ## ABORT in TERMINATED (R229, R183) -/

theorem execAbort_terminated (hs : s.rx.state = .terminated) : execAbort s = .next s :=
  if_pos hs

theorem rxOperation_terminated_ne_abort (hs : s.rx.state = .terminated) : rxOperation s ≠ some .abort := by
  rw [rxOperation_terminated hs]
  split <;> simp

/-! ## End-of-data where no byte is wanted (R230) -/

theorem inReady_of_wantsNoByte (hw : wantsByte s = false) : inReady s = false := by
  obtain ⟨hs, hp⟩ := Bool.or_eq_false_iff.mp hw
  rw [inReady, hs, hp]
  rfl

/-- Of R50's items those that take a byte or end-of-data drop out. -/
theorem rxOperation_of_wantsNoByte (hw : wantsByte s = false) :
    rxOperation s = if s.env.pins.abort && !closed s then some .abort
      else if s.env.pins.openValid && openReady s then some .openSession
      else if respValid s && s.env.pins.respReady then some .respond
      else internalOperation s := by
  simp [rxOperation, inReady_of_wantsNoByte hw, hw]

end Sys2Proof.Machine

open Sys2Proof.Machine in
/-- Settles O21: each of these rows is `raiseFraming`, which is three registers. -/
theorem errorRowsAreTheErrorPathEntry : Obligations.ErrorRowsAreTheErrorPathEntry := by
  refine ⟨fun s hs h1 h13 hv he => ?short, fun s hs hne => ?wrong⟩
  case short =>
    have hend := endOfData_iff.mpr ⟨hv, he⟩
    exact ⟨execErrorPath_malformedHeader hs h1 h13 hend, execShorthdr_collected hs h1 h13 hend⟩
  case wrong =>
    have hw := checksumRight_hdrBuf_eq_false hne
    exact ⟨execErrorPath_checksumError hs hw, execBadsum_collected hs hw⟩

open Sys2Proof.Machine in
/-- Settles O44: the step is `endShort`, and DISPATCH, RESPOND and NEXT do not look at the three registers. -/
theorem shortPayloadChangesNothingElse : Obligations.ShortPayloadChangesNothingElse := by
  refine ⟨fun s hs h0 hv he => execReadPayload_eos hs h0 (endOfData_iff.mpr ⟨hv, he⟩), ?_⟩
  intro s sh rem cnt i hi u t h
  have hblind : PayloadBlind (exec i) := by
    obtain rfl | rfl | rfl := hi
    · exact execDispatch_payloadBlind
    · exact execRespond_payloadBlind
    · exact execNext_payloadBlind
  obtain ⟨t', hexec, hback⟩ := hblind.next h sh rem cnt
  have henv := congrArg State.env hback
  have henc := congrArg State.enc hback
  have hrx := congrArg State.rx hback
  exact ⟨t', hexec, henv, henc, hrx⟩

open Sys2Proof.Machine in
/-- Settles O35: ABORT is `terminate` in an open session, where it is R50's first item, and `noStep` in TERMINATED. -/
theorem abortEndsTheSessionSilently : Obligations.AbortEndsTheSessionSilently :=
  fun _ => ⟨fun hs => ⟨execAbort_open hs, fun ha => rxOperation_abort ha hs⟩,
    fun hs => ⟨execAbort_terminated hs, rxOperation_terminated_ne_abort hs⟩⟩

open Sys2Proof.Machine in
/-- Settles O50: the items of R50 that are left where no byte is wanted do not mention end-of-data. -/
theorem endOfDataIsIgnoredUnlessWanted : Obligations.EndOfDataIsIgnoredUnlessWanted := by
  intro s e f hw
  rw [rxOperation_of_wantsNoByte hw]
  exact rxOperation_of_wantsNoByte hw

open Sys2Proof.Machine in
/-- Settles O58: the numbers by evaluation; NEXT after an error's whole text ends the session with the error's cause. -/
theorem exceptionNumbers : Obligations.ExceptionNumbers := by
  refine ⟨rfl, rfl, rfl, rfl, rfl, fun _ => rfl, fun _ => rfl, fun _ _ => rfl, fun _ _ => ⟨rfl, rfl⟩,
    fun e s t => ⟨stRespCode_raiseFraming e s, fun hs hc hl h => ?_⟩⟩
  cases (execNext_ofError hs hc hl).symm.trans h
  exact stTermCause_terminate_errorCause e s

end

section
/-! PROOFS. Nothing stops FHC: in a state that meets the invariant every well-formed instruction answers a next state,
and so does every clock edge (spec 60_exceptions.md R250, 93_implementation_defined.md U12; log entries 8 and 9). -/

namespace Sys2Proof.Machine

variable {s : State}

/-- An outcome that is a next state. -/
def Answers (r : Host.Outcome State Fault Refusal) : Prop :=
  ∃ t, r = .next t

theorem Answers.next (t : State) : Answers (.next t) :=
  ⟨t, rfl⟩

/-- A test answers when each branch does where it is taken. -/
theorem Answers.ite {p : Prop} [Decidable p] {a b : Host.Outcome State Fault Refusal} (ha : p → Answers a)
    (hb : ¬ p → Answers b) : Answers (if p then a else b) := by
  split
  · exact ha ‹_›
  · exact hb ‹_›

/-- An operation that fires under one condition and takes no step otherwise (log entry 8). -/
theorem Answers.guarded (p : Prop) [Decidable p] (s t : State) : Answers (if p then .next t else noStep s) :=
  .ite (fun _ => .next t) fun _ => .next s

/-! ## The operations that need no invariant -/

theorem execReadPayload_answers (e : PayloadEvent) (s : State) : Answers (execReadPayload e s) := by
  refine .ite (fun _ => ?_) fun _ => .next s
  cases e with
  | byte b | eos | done => exact .guarded _ _ _

theorem execReadExact_answers (n : Half) (s : State) : Answers (execReadExact n s) :=
  .ite (fun _ => .ite (fun _ => .next _) fun _ => .ite (fun _ => .next _) fun _ => .next _) fun _ => .next s

theorem execErrorPath_answers (e : FramingError) (s : State) : Answers (execErrorPath e s) := by
  cases e with
  | malformedHeader | checksumError => exact .guarded _ _ _

/-- HDR_BUF has 14 bytes, so DECODE of it finds a checksum right or wrong (R171, R172). -/
theorem execValidate_answers (s : State) : Answers (execValidate s) := by
  by_cases hs : s.rx.state = .validating
  · cases hc : checksumRight (Memory.bytes s.rx.hdrBuf) with
    | true => exact ⟨_, execValidate_right hs hc⟩
    | false => exact ⟨_, execValidate_wrong hs hc⟩
  · exact ⟨s, if_neg hs⟩

/-! ## The operations that some register values stop (R167, U12; log entry 9) -/

section
variable (hi : s.Inv)
include hi

/-- HDR_CNT is 0 to 13 in AWAITING_HEADER. -/
theorem execRecvHeader_answers (e : StreamEvent) : Answers (execRecvHeader e s) := by
  refine .ite (fun hs => ?_) fun _ => .next s
  obtain ⟨h13, -⟩ := hi.at_awaitingHeader hs
  refine .ite (fun h14 => absurd h14 ((ne_fourteen _).mpr h13)) fun _ => ?_
  cases e with
  | byte b => exact .guarded _ _ _
  | eos => exact .ite (fun _ => .ite (fun _ => .next _) fun _ => .next _) fun _ => .next s

/-- In RESPONDING a response that is not still being sent is wholly sent, and there is one. -/
theorem State.Inv.respIdx_at_end (hs : s.rx.state = .responding)
    (hl : ¬ s.rx.respIdx.toNat < respLen s.rx.respCode s.rx.x.payloadSize) :
    s.rx.respIdx.toNat = respLen s.rx.respCode s.rx.x.payloadSize ∧ s.rx.respCode ≠ .none :=
  ⟨hi.response.index_bound.eq_of_not_lt hl, (hi.at_responding hs).1⟩

theorem execRespond_answers : Answers (execRespond s) :=
  .ite (fun hs => .ite (fun _ => .next _) fun hl =>
    .ite (fun _ => .next s) fun hn => absurd (hi.respIdx_at_end hs hl) hn) fun _ => .next s

theorem execNext_answers : Answers (execNext s) :=
  .ite (fun hs => .ite (fun _ => .next s) fun hl =>
    .ite (fun _ => .next _) fun hn => absurd (hi.respIdx_at_end hs hl) hn) fun _ => .next s

/-- The length tests of CHECKSUM and DECODE are what well-formedness is needed for (R121, R128). -/
theorem exec_answers {i : Instr} (hw : wellFormed i = true) : Answers (exec i s) := by
  cases i with
  | checksum bs => exact ⟨_, if_pos (beq_iff_eq.mp hw)⟩
  | decode bs => exact ⟨_, if_pos (of_decide_eq_true hw)⟩
  | recvHeader e => exact execRecvHeader_answers hi e
  | respond => exact execRespond_answers hi
  | next => exact execNext_answers hi
  | readPayload e => exact execReadPayload_answers e s
  | readExact n => exact execReadExact_answers n s
  | errorPath e => exact execErrorPath_answers e s
  | validate => exact execValidate_answers s
  | syn h | ack h | fin h | data h | badsum h | shorthdr bs | encCmd f | openSession | dispatch =>
    exact .guarded _ _ _
  | encByte | abort => exact .ite (fun _ => .next s) fun _ => .next _
  | encode u => exact .next _
  | reset => exact .next _

end

/-! ## The clock edge (R50) -/

theorem streamOperation_wellFormed (s : State) (e : StreamEvent) : wellFormed (streamOperation s e) = true := by
  unfold streamOperation
  split <;> rfl

theorem internalOperation_wellFormed {i : Instr} (h : internalOperation s = some i) : wellFormed i = true := by
  rw [internalOperation] at h
  split at h
  · cases h; rfl
  · split at h <;> cases h; rfl
  · cases h; rfl
  · split at h <;> cases h; rfl
  · cases h
  · cases h

theorem rxOperation_wellFormed {i : Instr} (h : rxOperation s = some i) : wellFormed i = true := by
  rw [rxOperation] at h
  split_ifs at h
  · cases h; rfl
  · cases h; rfl
  · cases h; exact streamOperation_wellFormed s _
  · cases h; exact streamOperation_wellFormed s _
  · cases h; rfl
  · exact internalOperation_wellFormed h

theorem encOperation_wellFormed {i : Instr} (h : encOperation s = some i) : wellFormed i = true := by
  rw [encOperation] at h
  split_ifs at h <;> cases h <;> rfl

theorem execIf_answers {o : Option Instr} (hi : s.Inv) (ho : ∀ i, o = some i → wellFormed i = true) :
    Answers (execIf o s) := by
  cases o with
  | none => exact .next s
  | some i => exact exec_answers hi (ho i rfl)

/-- RX's operation keeps the invariant, so ENC's answers after it. -/
theorem clockEdge_answers (hi : s.Inv) : Answers (clockEdge s) := by
  cases hr : s.env.pins.rst with
  | true => exact ⟨_, clockEdge_reset hr⟩
  | false =>
    obtain ⟨t, ht⟩ := execIf_answers hi fun _ => rxOperation_wellFormed
    rw [clockEdge_running hr, ht, thenRun_next]
    exact execIf_answers (execIf_keeps_inv hi ht) fun _ => encOperation_wellFormed

end Sys2Proof.Machine

open Sys2Proof.Machine in
/-- Settles O54: what stops an operation is a wrong length, which well-formedness excludes, or register values that the
invariant excludes; an edge runs well-formed operations only. -/
theorem nothingStopsTheMachine : Obligations.NothingStopsTheMachine :=
  ⟨fun _ _ hi hw => exec_answers hi hw, fun _ hi => clockEdge_answers hi⟩

end

section
/-! PROOFS. An edge with rst high, or with abort high and a session open: RESET or ABORT is all that RX does, so no byte
of its streams moves (spec 70_reset_and_hazards.md R260, R262, R285). -/

namespace Sys2Proof.Machine

variable {s : State}

/-- ENC's part of an edge, run from any state `u`, replaces ENC's registers and the encoder output alone (R44). -/
theorem execIf_encOperation (s u : State) : ∃ e o, execIf (encOperation s) u = .next (withEnc e o u) := by
  obtain hnone | ⟨j, hj, henc⟩ := encOperation_cases s
  · rw [hnone]
    exact ⟨u.enc, u.env.txOut, rfl⟩
  · rw [hj]
    obtain ⟨e, o, hexec⟩ := exec_enc_withEnc henc u.enc u.env.txOut
    exact ⟨e, o, hexec u⟩

/-- An edge that aborts: the session ends silently, and ENC takes its own step beside it (R229, R241). -/
theorem clockEdge_abort (hr : s.env.pins.rst = false) (ha : s.env.pins.abort = true) (hs : s.rx.state ≠ .terminated) :
    ∃ e o, clockEdge s = .next (withEnc e o (terminate .fault s)) := by
  have hrx : execIf (rxOperation s) s = .next (terminate .fault s) := by
    rw [rxOperation_abort ha hs]
    exact execAbort_open hs
  rw [clockEdge_running hr, hrx, thenRun_next]
  exact execIf_encOperation s _

end Sys2Proof.Machine

open Sys2Proof.Machine in
/-- Settles O51: no handshake output mentions abort or rst; the edge is `resetUnits`, or `terminate` with ENC's step, and
neither writes RX's side of the environment. -/
theorem abortAndResetEdgesMoveNoByte : Obligations.AbortAndResetEdgesMoveNoByte := by
  refine ⟨fun s a r => ⟨rfl, rfl, rfl, rfl, rfl, rfl⟩, fun s t hedge h => ?edge⟩
  cases hr : s.env.pins.rst with
  | true =>
    cases (clockEdge_reset hr).symm.trans h
    exact ⟨rfl, rfl, rfl, rfl, fun _ => rfl⟩
  | false =>
    obtain ⟨ha, hs⟩ := hedge.resolve_left (Bool.eq_false_iff.mp hr)
    obtain ⟨e, o, habort⟩ := clockEdge_abort hr ha hs
    cases habort.symm.trans h
    exact ⟨rfl, rfl, rfl, rfl, nofun⟩

open Sys2Proof.Machine in
/-- Settles O36: RESET is `resetUnits`, the whole of an edge with rst high; it looks at no register and no other pin. -/
theorem resetRestoresEveryRegister : Obligations.ResetRestoresEveryRegister :=
  fun _ => ⟨rfl, clockEdge_reset⟩

end
